-- ==== Sys2Proof/Word.lean ====
section
/-! DEFINITION. The word types of the controller: bytes, the host command and response words, and the operand fields
(30_encoding.md R90, R91, R95; 00_scope.md R10, R11). -/

namespace Sys2Proof

/-- A frame-buffer byte or a wire item: 8 bits (R60, R97). -/
abbrev Byte := BitVec 8

/-- A host command word `HC`, 40 bits (R91). -/
abbrev HostWord := BitVec 40

/-- A response word `RS`, 34 bits (R95). -/
abbrev RspWord := BitVec 34

/-- A coordinate field of a command word: 16 bits, two's complement when read as a number (R91, R94). -/
abbrev CoordField := BitVec 16

/-- The value of a rotation state, 2 bits (R22). -/
abbrev RotState := BitVec 2

end Sys2Proof
end

