-- ==== Sys2Proof/Syntax.lean ====
section
/-! DEFINITION. The instructions: one constructor per row of spec/opcode_table.json. Eleven host commands
(30_encoding.md R92) and the five wire items the byte engine sends (R99, R101, R102, R103). -/

namespace Sys2Proof

/-- One instruction of the opcode table. -/
inductive Instr where
  /-- `INIT` (R231). -/
  | init
  /-- `SHUTDOWN` (R232). -/
  | shutdown
  /-- `SETROT r` (R136). -/
  | setRot (r : RotState)
  /-- `SETPIXEL x, y, v` (R138). -/
  | setPixel (x y : CoordField) (v : Bool)
  /-- `GETPIXEL x, y` (R139). -/
  | getPixel (x y : CoordField)
  /-- `CLEARBUF` (R140). -/
  | clearBuf
  /-- `REFRESH` (R193). -/
  | refresh
  /-- `CLEARDISP` (R196). -/
  | clearDisp
  /-- `VCOMTOG` (R197). -/
  | vcomTog
  /-- `GETDIM` (R137). -/
  | getDim
  /-- `RDSTAT` (R233). -/
  | rdStat
  /-- `wire.CMD_WRITE`: the command byte with `write` set (R99). -/
  | wireCmdWrite (v : Bool)
  /-- `wire.CMD_CLEAR`: the command byte with `clear` set (R99). -/
  | wireCmdClear (v : Bool)
  /-- `wire.LINE_ADDR`: a 1-based line number (R101). -/
  | wireLineAddr (a : Byte)
  /-- `wire.DATA`: a frame-buffer byte (R102). -/
  | wireData (d : Byte)
  /-- `wire.ZERO`: terminator, trailer or dummy (R103). -/
  | wireZero
  deriving DecidableEq, Repr

/-- The four wire formats. A byte's kind is given by its place in the conversation, never by its value (R90, R104). -/
inductive WireKind where
  /-- `WC`, command byte. -/
  | command
  /-- `WA`, line-address byte. -/
  | lineAddr
  /-- `WD`, data byte. -/
  | data
  /-- `WZ`, zero byte. -/
  | zero
  deriving DecidableEq, Repr

/-- The bits of an instruction as the hardware meets them: a host command word, or a wire byte with its place. -/
inductive Code where
  | host (w : HostWord)
  | wire (k : WireKind) (b : Byte)
  deriving DecidableEq, Repr

end Sys2Proof
end

