-- ==== Sys2Proof/Decode.lean ====
section
/-! DEFINITION. Decoding (30_encoding.md R91 to R96, R99 to R103): total, rejecting by name; after it the encoder, from the
same tables, and the host's entry `decodeTableWord`. -/

namespace Sys2Proof

/-- Why a code is no instruction. -/
inductive DecodeError where
  /-- A reserved opcode, 0x0 or 0xC to 0xF (R96). -/
  | reservedOpcode
  /-- A legal opcode with a 1 in a must-be-zero bit (R96). -/
  | mustBeZeroBit
  /-- A first byte the controller never sends (R100). -/
  | unsentCommandByte
  /-- A line address of 0 (R101); one above H is not refused here (log 23). -/
  | lineAddressZero
  /-- A `WZ` byte that is not 0x00 (R103). -/
  | nonzeroZeroByte
  deriving DecidableEq, Repr

/-! ### Fields of the host command word (R91) -/

/-- `op`, bits 39:36. -/
def hostOp (w : HostWord) : BitVec 4 := w.extractLsb' 36 4

/-- `arg`, bits 35:32. -/
def hostArg (w : HostWord) : BitVec 4 := w.extractLsb' 32 4

/-- `x`, bits 31:16. -/
def hostX (w : HostWord) : CoordField := w.extractLsb' 16 16

/-- `y`, bits 15:0. -/
def hostY (w : HostWord) : CoordField := w.extractLsb' 0 16

/-- The instruction if the bits that must be zero are zero, else the refusal by name (R96). -/
def ifZeroBits (ok : Bool) (i : Instr) : Except DecodeError Instr :=
  if ok then .ok i else .error .mustBeZeroBit

/-- A command with no operand: `arg`, `x` and `y` must be zero (R92). -/
def decodePlain (w : HostWord) (i : Instr) : Except DecodeError Instr :=
  ifZeroBits (hostArg w == 0#4 && hostX w == 0#16 && hostY w == 0#16) i

/-- The host decoder, by the opcode map of R92 with the operands of R94. -/
def decodeHost (w : HostWord) : Except DecodeError Instr :=
  match (hostOp w).toNat with
  | 1 => decodePlain w .init
  | 2 => decodePlain w .shutdown
  | 3 => ifZeroBits ((hostArg w).extractLsb' 2 2 == 0#2 && hostX w == 0#16 && hostY w == 0#16)
      (.setRot ((hostArg w).extractLsb' 0 2))
  | 4 => ifZeroBits ((hostArg w).extractLsb' 1 3 == 0#3)
      (.setPixel (hostX w) (hostY w) ((hostArg w).getLsbD 0))
  | 5 => ifZeroBits (hostArg w == 0#4) (.getPixel (hostX w) (hostY w))
  | 6 => decodePlain w .clearBuf
  | 7 => decodePlain w .refresh
  | 8 => decodePlain w .clearDisp
  | 9 => decodePlain w .vcomTog
  | 10 => decodePlain w .getDim
  | 11 => decodePlain w .rdStat
  | _ => .error .reservedOpcode

/-- The wire decoder: the kind is given by the place, the value is checked against the kind's format (R99 to R103).
R101 says a line address is never greater than H, and no rule says what such a byte would do. DESIGN CHOICE (log 23): the decoder has
no H and accepts it; only 0, which no instance allows, is refused. `Instr.wf` and the invariant exclude it. -/
def decodeWire (k : WireKind) (b : Byte) : Except DecodeError Instr :=
  match k with
  | .command =>
      match b.toNat with
      | 1 => .ok (.wireCmdWrite false)
      | 3 => .ok (.wireCmdWrite true)
      | 4 => .ok (.wireCmdClear false)
      | 6 => .ok (.wireCmdClear true)
      | _ => .error .unsentCommandByte
  | .lineAddr => if b = 0#8 then .error .lineAddressZero else .ok (.wireLineAddr b)
  | .data => .ok (.wireData b)
  | .zero => if b = 0#8 then .ok .wireZero else .error .nonzeroZeroByte

/-- The decoder. -/
def decode : Code → Except DecodeError Instr
  | .host w => decodeHost w
  | .wire k b => decodeWire k b

/-! ### Encoding -/

/-- The host word of its four fields (R91). -/
def hostWord (op arg : BitVec 4) (x y : CoordField) : HostWord := op ++ arg ++ x ++ y

/-- The command byte: `flag | VCOM << 1` (R192), `WRITE_COMMAND` 0x01 or `CLEAR` 0x04 (R98). -/
def commandByte (flag : Byte) (v : Bool) : Byte := flag ||| (if v then 0x02#8 else 0x00#8)

/-- `WRITE_COMMAND`, bit 0 (R98). -/
def writeCommand : Byte := 0x01#8

/-- `CLEAR`, bit 2 (R98). -/
def clearCommand : Byte := 0x04#8

/-- The encoder, from the opcode map (R92) and the wire formats (R99 to R103). -/
def encode : Instr → Code
  | .init => .host (hostWord 0x1#4 0#4 0#16 0#16)
  | .shutdown => .host (hostWord 0x2#4 0#4 0#16 0#16)
  | .setRot r => .host (hostWord 0x3#4 (0#2 ++ r) 0#16 0#16)
  | .setPixel x y v => .host (hostWord 0x4#4 (0#3 ++ BitVec.ofBool v) x y)
  | .getPixel x y => .host (hostWord 0x5#4 0#4 x y)
  | .clearBuf => .host (hostWord 0x6#4 0#4 0#16 0#16)
  | .refresh => .host (hostWord 0x7#4 0#4 0#16 0#16)
  | .clearDisp => .host (hostWord 0x8#4 0#4 0#16 0#16)
  | .vcomTog => .host (hostWord 0x9#4 0#4 0#16 0#16)
  | .getDim => .host (hostWord 0xA#4 0#4 0#16 0#16)
  | .rdStat => .host (hostWord 0xB#4 0#4 0#16 0#16)
  | .wireCmdWrite v => .wire .command (commandByte writeCommand v)
  | .wireCmdClear v => .wire .command (commandByte clearCommand v)
  | .wireLineAddr a => .wire .lineAddr a
  | .wireData d => .wire .data d
  | .wireZero => .wire .zero 0x00#8

/-! ### The match and mask table of R93 -/

/-- One row of R93. -/
structure HostRow where
  mnemonic : String
  mask : HostWord
  pattern : HostWord
  deriving DecidableEq, Repr

/-- The eleven rows of R93. -/
def hostRows : List HostRow := [
  ⟨"INIT", 0xFFFFFFFFFF#40, 0x1000000000#40⟩,
  ⟨"SHUTDOWN", 0xFFFFFFFFFF#40, 0x2000000000#40⟩,
  ⟨"SETROT", 0xFCFFFFFFFF#40, 0x3000000000#40⟩,
  ⟨"SETPIXEL", 0xFE00000000#40, 0x4000000000#40⟩,
  ⟨"GETPIXEL", 0xFF00000000#40, 0x5000000000#40⟩,
  ⟨"CLEARBUF", 0xFFFFFFFFFF#40, 0x6000000000#40⟩,
  ⟨"REFRESH", 0xFFFFFFFFFF#40, 0x7000000000#40⟩,
  ⟨"CLEARDISP", 0xFFFFFFFFFF#40, 0x8000000000#40⟩,
  ⟨"VCOMTOG", 0xFFFFFFFFFF#40, 0x9000000000#40⟩,
  ⟨"GETDIM", 0xFFFFFFFFFF#40, 0xA000000000#40⟩,
  ⟨"RDSTAT", 0xFFFFFFFFFF#40, 0xB000000000#40⟩]

/-- A word matches a row: `(c & mask) = match` (R93). -/
def HostRow.matchesWord (r : HostRow) (w : HostWord) : Bool := (w &&& r.mask) == r.pattern

/-- The table's name of an instruction. -/
def Instr.mnemonic : Instr → String
  | .init => "INIT"
  | .shutdown => "SHUTDOWN"
  | .setRot _ => "SETROT"
  | .setPixel _ _ _ => "SETPIXEL"
  | .getPixel _ _ => "GETPIXEL"
  | .clearBuf => "CLEARBUF"
  | .refresh => "REFRESH"
  | .clearDisp => "CLEARDISP"
  | .vcomTog => "VCOMTOG"
  | .getDim => "GETDIM"
  | .rdStat => "RDSTAT"
  | .wireCmdWrite _ => "wire.CMD_WRITE"
  | .wireCmdClear _ => "wire.CMD_CLEAR"
  | .wireLineAddr _ => "wire.LINE_ADDR"
  | .wireData _ => "wire.DATA"
  | .wireZero => "wire.ZERO"

/-! ### The host's entry -/

/-- The place a bare wire byte is read at when its place is not given: the formats whose patterns fix the most bits first.
DESIGN CHOICE (log 12): a byte's value does not determine its kind (R90, R104). -/
def bareByteKind (b : Byte) : WireKind :=
  if b = 0x00#8 then .zero
  else if b &&& 0xFD#8 = 0x01#8 || b &&& 0xFD#8 = 0x04#8 then .command
  else .data

/-- The code of a table row's bits: 40 bits are a host word, 8 bits a wire byte. -/
def tableCode (nbits w : Nat) : Option Code :=
  if nbits = 40 && decide (w < 2 ^ 40) then some (.host (BitVec.ofNat 40 w))
  else if nbits = 8 && decide (w < 2 ^ 8) then some (.wire (bareByteKind (BitVec.ofNat 8 w)) (BitVec.ofNat 8 w))
  else none

/-- The instruction the decoder reads from a table row's bits; none where it refuses. -/
def decodeTableWord (nbits w : Nat) : Option Instr :=
  match tableCode nbits w with
  | none => none
  | some c =>
      match decode c with
      | .ok i => some i
      | .error _ => none

end Sys2Proof
end

