-- ==== Sys2Proof/Config.lean ====
section
/-! DEFINITION. The configuration record of an instance (00_scope.md R5), the constants derived from it (R7), the free
values of the model, and the one instance `State.reset` is stated for (logs 2 to 5). -/

namespace Sys2Proof

/-- The transport mode (R5, R24): bit-banged pins or the serial peripheral. -/
inductive Mode where
  | sw
  | hw
  deriving DecidableEq, Repr

/-- The configuration record, plain data; fixed for an instance, written by no command and not touched by reset (R5). -/
structure Config where
  /-- `W`, physical width in pixels. -/
  width : Nat
  /-- `H`, physical height in lines. -/
  height : Nat
  /-- `MODE`. -/
  mode : Mode
  /-- `VCOM_INIT`, what INIT and reset load into VCOM. -/
  vcomInit : Bool
  /-- `FB_RESET`, the frame buffer's content after reset. -/
  fbReset : List Byte
  /-- `T_SETTLE_US`, the settle delay in microseconds. -/
  tSettleUs : Nat
  /-- `F_SCLK_HZ`, positive (`Config.wf`); no rule depends on its value. -/
  fSclkHz : Nat
  /-- `T_PULSE_MIN`, positive (`Config.wf`); no rule depends on its value. -/
  tPulseMin : Nat
  /-- `T_VCOM_MAX`, positive (`Config.wf`); no rule depends on its value. -/
  tVcomMax : Nat
  deriving DecidableEq, Repr

/-- `B = W / 8`, the bytes per row (R7). -/
def Config.rowBytes (c : Config) : Nat := c.width / 8

/-- `N = W * H / 8`, the frame-buffer length in bytes (R7). -/
def Config.fbSize (c : Config) : Nat := c.width * c.height / 8

/-- What byte `a` of the frame buffer reads as until something writes it: `FB_RESET[a]` (R21, R281). -/
def Config.resetByte (c : Config) (a : Nat) : Byte := c.fbReset.getD a 0xFF#8

/-- Free value (log 7): the serial peripheral owner's answer to the n-th INIT_OK request that the input stream does not
answer (R37, D18, U16). Nothing constrains it. -/
opaque Config.freeInitOk : Nat → Bool

/-- Free value (log 8): the level of the SCLK pin in HW mode outside a transaction, at observation n (R31, D30, U13). -/
opaque Config.freeSclk : Nat → Bool

/-- Free value (log 8): the level of the SI pin in HW mode outside a transaction, at observation n (R32, D30, U13). -/
opaque Config.freeSi : Nat → Bool

/-- DESIGN CHOICE, unsafe (logs 2 to 5): the instance of `State.reset`. The spec leaves these parameters open; this is its
own worked instance (95_test_vectors.md: 16×2, SW, VCOM_INIT = 1, FB_RESET = 12 34 56 78). -/
def Config.board : Config where
  width := 16
  height := 2
  mode := .sw
  vcomInit := true
  fbReset := [0x12#8, 0x34#8, 0x56#8, 0x78#8]
  tSettleUs := 6
  fSclkHz := 1
  tPulseMin := 1
  tVcomMax := 1

end Sys2Proof
end

