-- ==== Sys2Proof/Machine/State.lean ====
section
/-! DEFINITION. The state of the controller as plain data (10_state.md), the reasons a step can stop, and the state after
reset (R43, R280). INVENTORY.md's State section is the list this structure answers. -/

namespace Sys2Proof.Machine

/-- `PHASE`, the sequencer's position (R38, R190). -/
inductive Phase where
  /-- `IDLE`: no command is executing. -/
  | idle
  /-- `OPEN` (ConversationOpen): a conversation's action list is not yet fully performed. -/
  | conversation
  deriving DecidableEq, Repr

/-- The action alphabet (R13). -/
inductive Action where
  /-- `CS(v)`: drive SCS. -/
  | cs (v : Bool)
  /-- `CLK(v)`: drive SCLK. -/
  | clk (v : Bool)
  /-- `DAT(v)`: drive SI. -/
  | dat (v : Bool)
  /-- `DELAY(t)`: at least t microseconds pass. -/
  | delay (t : Nat)
  /-- `TXN_BEGIN`, HW mode only. -/
  | txnBegin
  /-- `TXN_END`, HW mode only. -/
  | txnEnd
  /-- `TOGGLE_VCOM`, internal. -/
  | toggleVcom
  /-- `FB_CLEAR`, internal. -/
  | fbClear
  deriving DecidableEq, Repr

/-- An entry of PEND: an action, or a byte still to be expanded by the byte engine, the macro `XFER(b)` of R13 (log 10). -/
inductive Item where
  | act (a : Action)
  | byte (k : WireKind) (b : Byte)
  deriving DecidableEq, Repr

/-- The triple of pin levels an observer sees (R14). -/
structure Pins where
  scs : Bool
  sclk : Bool
  si : Bool
  deriving DecidableEq, Repr

/-- One observation (R14). -/
inductive Obs where
  /-- The pins after a pin action. -/
  | pins (p : Pins)
  /-- The position of a `DELAY(t)`. -/
  | delay (t : Nat)
  /-- The position of a `TXN_BEGIN`. -/
  | txnBegin
  /-- The position of a `TXN_END`. -/
  | txnEnd
  /-- A response word (R35). -/
  | response (r : RspWord)
  deriving DecidableEq, Repr

/-- The stops of the machine. The controller itself never stops (R251): these are raised only in states no run of a
well-formed instance reaches. -/
inductive Fault where
  /-- An access to a frame-buffer address outside 0..N-1, which does not exist (R60, R68). Raised by the byte access of
  SETPIXEL and GETPIXEL, and only on an instance whose configuration is ill formed (R6). Safe (log 14). -/
  | noSuchAddress (a : Nat)
  /-- A wire item met outside an open conversation: the byte engine is used only while SCS = 1 and, in HW mode,
  TXN_OPEN = 1 (R160, R162), and the spec gives it no effect elsewhere. Raised by the five wire items. Safe (log 11). -/
  | transferOutsideConversation
  deriving DecidableEq, Repr

/-- Refusals. -/
inductive Refusal where
  /-- An instruction that has no meaning yet; raised by `exec`'s refused arms only. Safe. -/
  | notModelled (mnemonic : String)
  /-- PEND holds a byte its place does not allow (a first byte of R100, a line address 0, a zero byte that is not 0): never
  produced by any command. A line address above H is not among them: it is clocked out (log 23). Raised by the sequencer's fetch.
  Safe (log 20). -/
  | unsendableWireItem
  deriving DecidableEq, Repr

/-- The controller's state. -/
structure State where
  /-- The configuration record (R5): never written. Its `mode` is `MODE` (R24). -/
  cfg : Config
  /-- `FB`, the frame buffer (R21): the bytes that differ from `FB_RESET`, addresses strictly rising. -/
  fb : List Host.Cell
  /-- `ROT` (R22). -/
  rot : RotState
  /-- `VCOM` (R23). -/
  vcom : Bool
  /-- `INITED` (R25). -/
  inited : Bool
  /-- `SPI_HELD` (R26); read through `State.spiHeldBit`, which is 0 in SW mode. -/
  spiHeld : Bool
  /-- `FAULT` (R27). -/
  fault : BitVec 2
  /-- `SCS` (R30). -/
  scs : Bool
  /-- `SCLK` (R31): the level the byte engine drives; the pin is `State.pins`. -/
  sclk : Bool
  /-- `SI` (R32): the level the byte engine drives; the pin is `State.pins`. -/
  si : Bool
  /-- `TXN_OPEN` (R33); read through `State.txnOpenBit`, which is 0 in SW mode. -/
  txnOpen : Bool
  /-- `PHASE` (R38). -/
  phase : Phase
  /-- `PEND` (R39). -/
  pend : List Item
  /-- `rsp_valid` (R35). -/
  rspValid : Bool
  /-- `rsp[33:0]` (R35, R95). -/
  rsp : RspWord
  /-- Input: the words the host presents, in order; `cmd_valid` is 1 while one is left (R34, R44; log 6). -/
  cmds : List HostWord
  /-- Input: the level of RST at each coming step, low when the list has ended (R36, R44; log 6). -/
  rstIn : List Bool
  /-- Input: the answers to the coming INIT_OK samples (R37, R44; logs 6, 7). -/
  initOkIn : List Bool
  /-- The model's own: how many free INIT_OK answers were drawn (log 7). -/
  draws : Nat
  /-- The model's own: the observation index, one per step (log 8). -/
  now : Nat
  /-- The model's own: what an outside observer has seen, oldest first (R14; log 16). -/
  trace : List Obs
  deriving DecidableEq, Repr

/-- The state right after reset of an instance (R43, R280), with no input waiting and nothing observed. -/
def State.resetOf (c : Config) : State where
  cfg := c
  fb := []
  rot := 0#2
  vcom := c.vcomInit
  inited := false
  spiHeld := false
  fault := 0#2
  scs := false
  sclk := false
  si := false
  txnOpen := false
  phase := .idle
  pend := []
  rspValid := false
  rsp := 0#34
  cmds := []
  rstIn := []
  initOkIn := []
  draws := 0
  now := 0
  trace := []

/-- The machine right after reset, for the instance `Config.board` (logs 2 to 5). -/
def State.reset : State := State.resetOf Config.board

end Sys2Proof.Machine
end

