-- ==== Sys2Proof/Machine/Flags.lean ====
section
/-! DEFINITION. Flag computations. The controller has no condition codes (10_state.md R29); its one status word is the view
STATUS (R28), and its one sticky field is FAULT (R27). -/

namespace Sys2Proof.Machine

/-- The three faults a command can raise (60_exceptions.md R252 to R254). -/
inductive FaultKind where
  | illegalCommand
  | notInitialized
  | transportReleased
  deriving DecidableEq, Repr

/-- The code of a fault (R27, R251). -/
def FaultKind.code : FaultKind → BitVec 2
  | .illegalCommand => 1#2
  | .notInitialized => 2#2
  | .transportReleased => 3#2

/-- FAULT after a fault: the first code is kept (R251). -/
def stickyFault (old new : BitVec 2) : BitVec 2 := if old = 0#2 then new else old

/-- `MODE` as a bit: 0 = SW, 1 = HW (R24). -/
def modeBit : Mode → Bool
  | .sw => false
  | .hw => true

/-- `SPI_HELD` as read: hard-wired 0 in SW mode (R26). -/
def State.spiHeldBit (s : State) : Bool := modeBit s.cfg.mode && s.spiHeld

/-- `TXN_OPEN` as read: hard-wired 0 in SW mode (R33). -/
def State.txnOpenBit (s : State) : Bool := modeBit s.cfg.mode && s.txnOpen

/-- The STATUS word (R28, R233): FAULT in 7:6, ROT in 5:4, VCOM 3, MODE 2, SPI_HELD 1, INITED 0, zero above. -/
def State.statusWord (s : State) : BitVec 32 :=
  0#24 ++ s.fault ++ s.rot ++ BitVec.ofBool s.vcom ++ BitVec.ofBool (modeBit s.cfg.mode)
    ++ BitVec.ofBool s.spiHeldBit ++ BitVec.ofBool s.inited

/-- `cmd_ready`: 1 exactly when PHASE = IDLE (R34). -/
def State.cmdReady (s : State) : Bool := s.phase == .idle

/-- `cmd_valid` (R34): the host presents a word. -/
def State.cmdValid (s : State) : Bool := !s.cmds.isEmpty

/-- The level of RST at the coming step (R36). -/
def State.rstLevel (s : State) : Bool := s.rstIn.headD false

end Sys2Proof.Machine
end

