-- ==== Sys2Proof/Machine/Memory.lean ====
section
/-! DEFINITION. The frame buffer as a list of (address, byte) cells in one canonical form (20_memory.md R60): addresses
strictly rising, no cell equal to what an unlisted address reads as. `d` is that reading: `FB_RESET` of the instance. -/

namespace Sys2Proof.Machine

/-- The byte listed for an address, if one is. -/
def Memory.lookup : List Host.Cell → Nat → Option Byte
  | [], _ => none
  | (k, v) :: m, a => if k = a then some v else Memory.lookup m a

/-- The byte at an address. -/
def Memory.read (d : Nat → Byte) (m : List Host.Cell) (a : Nat) : Byte := (Memory.lookup m a).getD (d a)

/-- List a byte for an address, in place of one already listed. -/
def Memory.insert : List Host.Cell → Nat → Byte → List Host.Cell
  | [], a, v => [(a, v)]
  | (k, w) :: m, a, v =>
      if a < k then (a, v) :: (k, w) :: m
      else if a = k then (a, v) :: m
      else (k, w) :: Memory.insert m a v

/-- Take an address off the list. -/
def Memory.remove (m : List Host.Cell) (a : Nat) : List Host.Cell := m.filter (fun c => c.1 != a)

/-- Write a byte, keeping the canonical form: writing what an unlisted address reads as removes the cell. -/
def Memory.write (d : Nat → Byte) (m : List Host.Cell) (a : Nat) (v : Byte) : List Host.Cell :=
  if v = d a then Memory.remove m a else Memory.insert m a v

/-- The memory of `n` bytes all equal to `v`. -/
def Memory.filled (d : Nat → Byte) (n : Nat) (v : Byte) : List Host.Cell :=
  (List.range n).filterMap (fun a => if v = d a then none else some (a, v))

/-- Addresses strictly rising. -/
def Memory.rising : List Host.Cell → Bool
  | [] => true
  | (k, _) :: m => m.all (fun c => decide (k < c.1)) && Memory.rising m

/-- The canonical form of a memory of `n` bytes: strictly rising addresses below `n`, no cell equal to the unlisted reading. -/
def Memory.wf (d : Nat → Byte) (n : Nat) (m : List Host.Cell) : Bool :=
  Memory.rising m && m.all (fun c => decide (c.1 < n) && c.2 != d c.1)

end Sys2Proof.Machine
end

