-- ==== Sys2Proof/WellFormed.lean ====
section
/-! DEFINITION. When a configuration has an instance (00_scope.md R5, R6) and when an instruction is well formed
(30_encoding.md R101: a line address is 1..H; every other operand value is legal, R94). -/

namespace Sys2Proof

/-- A well-formed configuration (R6), every parameter having a legal value of R5's table: F_SCLK_HZ, T_PULSE_MIN and T_VCOM_MAX
are positive (R5; R6's own list does not repeat it, log 5). `MODE`, `VCOM_INIT` and `T_SETTLE_US` are legal by their types. -/
def Config.wf (c : Config) : Bool :=
  decide (c.width % 8 = 0) && decide (8 ≤ c.width) && decide (c.width ≤ 32760)
    && decide (1 ≤ c.height) && decide (c.height ≤ 255)
    && decide (c.fbReset.length = c.fbSize)
    && decide (1 ≤ c.fSclkHz) && decide (1 ≤ c.tPulseMin) && decide (1 ≤ c.tVcomMax)

/-- A well-formed instruction on an instance: a line address is never 0 and never greater than H (R101). Every operand of a
host command is legal in all its values (R94). -/
def Instr.wf (c : Config) : Instr → Bool
  | .init => true
  | .shutdown => true
  | .setRot _ => true
  | .setPixel _ _ _ => true
  | .getPixel _ _ => true
  | .clearBuf => true
  | .refresh => true
  | .clearDisp => true
  | .vcomTog => true
  | .getDim => true
  | .rdStat => true
  | .wireCmdWrite _ => true
  | .wireCmdClear _ => true
  | .wireLineAddr a => decide (1 ≤ a.toNat) && decide (a.toNat ≤ c.height)
  | .wireData _ => true
  | .wireZero => true

end Sys2Proof
end

