-- ==== Sys2Proof/Machine/Ops.lean ====
section
/-! DEFINITION. The named operations over the state: frame-buffer access, response and fault (60_exceptions.md R251: what
takes the place of an exception; there is no trap entry and no return, R258, R259), pins and actions (10_state.md R40),
reset (70_reset_and_hazards.md R280, R282), and the preconditions of 43_system.md R234. -/

namespace Sys2Proof.Machine

/-! ### The frame buffer (20_memory.md) -/

/-- `FB[a]` as stored; meaningful for a below N. -/
def State.byteAt (s : State) (a : Nat) : Byte := Memory.read s.cfg.resetByte s.fb a

/-- `MemRead(a, 1)` (R12): outside 0..N-1 there is no byte (R60). -/
def State.memRead (s : State) (a : Nat) : Except Fault Byte :=
  if a < s.cfg.fbSize then .ok (s.byteAt a) else .error (.noSuchAddress a)

/-- `MemWrite(a, 1, v)` (R12). -/
def State.memWrite (s : State) (a : Nat) (v : Byte) : Except Fault State :=
  if a < s.cfg.fbSize then .ok { s with fb := Memory.write s.cfg.resetByte s.fb a v } else .error (.noSuchAddress a)

/-- Every byte of the frame buffer set to 0xFF, the inactive polarity (R7, R140, and `FB_CLEAR` of R13). -/
def State.clearBuffer (s : State) : State :=
  { s with fb := Memory.filled s.cfg.resetByte s.cfg.fbSize 0xFF#8 }

/-! ### Responses and faults -/

/-- The response word (30_encoding.md R95). -/
def responseWord (err : BitVec 2) (data : BitVec 32) : RspWord := err ++ data

/-- Produce a response (R35). -/
def State.emitResponse (s : State) (r : RspWord) : State :=
  { s with rspValid := true, rsp := r, trace := s.trace ++ [.response r] }

/-- `respond d` (R12): the command completes with data `d`. -/
def State.respond (s : State) (d : BitVec 32) : State := s.emitResponse (responseWord 0#2 d)

/-- `raise F` (R251): the first code is kept in FAULT, the response carries this one, nothing else changes. -/
def State.raise (s : State) (f : FaultKind) : State :=
  State.emitResponse { s with fault := stickyFault s.fault f.code } (responseWord f.code 0#32)

/-- The INITED check (R234, R253). -/
def requireInit (s : State) (k : Host.Outcome State Fault Refusal) : Host.Outcome State Fault Refusal :=
  if s.inited then k else .next (s.raise .notInitialized)

/-- The checks of a conversation command in their order (R195, R234, R255). -/
def requireTransport (s : State) (k : Host.Outcome State Fault Refusal) : Host.Outcome State Fault Refusal :=
  requireInit s (if s.cfg.mode = .hw && !s.spiHeldBit then .next (s.raise .transportReleased) else k)

/-! ### Pins and actions -/

/-- The levels on the three pins (R30 to R32). In HW mode outside a transaction the spec says nothing of SCLK and SI: free
values (R31, D30, U13; log 8). -/
def State.pins (s : State) : Pins :=
  if s.cfg.mode = .hw && !s.txnOpenBit then ⟨s.scs, Config.freeSclk s.now, Config.freeSi s.now⟩
  else ⟨s.scs, s.sclk, s.si⟩

/-- Record an observation (R14). -/
def State.observe (s : State) (o : Obs) : State := { s with trace := s.trace ++ [o] }

/-- Record the pin levels. -/
def State.observePins (s : State) : State := s.observe (.pins s.pins)

/-- Write TXN_OPEN: hard-wired 0 in SW mode (R33). -/
def State.writeTxnOpen (s : State) (v : Bool) : State :=
  { s with txnOpen := if s.cfg.mode = .hw then v else s.txnOpen }

/-- Write SPI_HELD: hard-wired 0 in SW mode (R26). -/
def State.writeSpiHeld (s : State) (v : Bool) : State :=
  { s with spiHeld := if s.cfg.mode = .hw then v else s.spiHeld }

/-- Perform one action (R40) and record what is seen of it (R14): the pin triple after each pin action, `TXN_BEGIN` and `TXN_END`
among them (R13), and the marks. A `DELAY` holds all pins, so its triple would merge with the one before. `TXN_BEGIN` and `TXN_END`
do not occur in SW mode (R33). -/
def State.perform (s : State) : Action → State
  | .cs v => State.observePins { s with scs := v }
  | .clk v => State.observePins { s with sclk := v }
  | .dat v => State.observePins { s with si := v }
  | .delay t => s.observe (.delay t)
  | .txnBegin => if s.cfg.mode = .hw then ((s.writeTxnOpen true).observe .txnBegin).observePins else s
  | .txnEnd => if s.cfg.mode = .hw then ((s.writeTxnOpen false).observe .txnEnd).observePins else s
  | .toggleVcom => { s with vcom := !s.vcom }
  | .fbClear => s.clearBuffer

/-- When PEND has become empty the conversation is over: PHASE <- IDLE and the response is produced (R40, R190). -/
def State.settle (s : State) : State :=
  if s.pend = [] then State.respond { s with phase := .idle } 0#32 else s

/-- Perform the head action of PEND (R40); a state whose PEND has no action at its head is left as it is. -/
def State.advance (s : State) : State :=
  match s.pend with
  | .act a :: p => State.settle (State.perform { s with pend := p } a)
  | _ => s

/-- INIT's rest levels (R231): SCS <- 0 and, in SW mode, SCLK <- 0. They are observed only if a level changes: driving a pin
to the level it has is no edge (R14, R231; log 19). -/
def State.restPins (s : State) : State :=
  let t : State := { s with scs := false, sclk := if s.cfg.mode = .sw then false else s.sclk }
  { t with trace := if t.scs = s.scs ∧ t.sclk = s.sclk then s.trace else s.trace ++ [.pins t.pins] }

/-- Sample INIT_OK (R37): the next answer of the input stream; when it has ended, a free value (D18, U16; log 7). -/
def State.sampleInitOk (s : State) : Bool × State :=
  match s.initOkIn with
  | b :: rest => (b, { s with initOkIn := rest })
  | [] => (Config.freeInitOk s.draws, { s with draws := s.draws + 1 })

/-! ### Reset -/

/-- RST asserted (R36, R280, R282): every state element to its reset value at once, a command in execution abandoned without
a response, the pins at their reset levels. The inputs still to come and what has been observed are not state of the
controller and stay (log 15). -/
def State.applyReset (s : State) : State :=
  State.observePins { State.resetOf s.cfg with
    cmds := s.cmds, rstIn := s.rstIn, initOkIn := s.initOkIn, draws := s.draws, now := s.now, trace := s.trace }

/-- Building an instance (R6): an ill-formed configuration has none. -/
def State.build (c : Config) : Option State := if c.wf then some (State.resetOf c) else none

end Sys2Proof.Machine
end

