-- ==== Sys2Proof/Machine/Transport.lean ====
section
/-! DEFINITION. The byte engine and the conversation bracket (41_serial_transport.md R160 to R165). -/

namespace Sys2Proof.Machine

/-- The three actions of one bit (R161): clock low, data, clock high. -/
def xferBit (v : Bool) : List Action := [.clk false, .dat v, .clk true]

/-- `XFER(b)` (R161, R162): bits 0 to 7 in order, then clock low; 25 actions, the same in both modes. -/
def xfer (b : Byte) : List Action :=
  xferBit (b.getLsbD 0) ++ xferBit (b.getLsbD 1) ++ xferBit (b.getLsbD 2) ++ xferBit (b.getLsbD 3)
    ++ xferBit (b.getLsbD 4) ++ xferBit (b.getLsbD 5) ++ xferBit (b.getLsbD 6) ++ xferBit (b.getLsbD 7)
    ++ [.clk false]

/-- What an entry of PEND stands for (R13): an action, or the 25 actions of a byte. -/
def Item.actions : Item → List Action
  | .act a => [a]
  | .byte _ b => xfer b

/-- `PEND` of R39 with every `XFER` written out. -/
def pendActions (l : List Item) : List Action := l.flatMap Item.actions

/-- `OPEN_SW` and `OPEN_HW` (R164). -/
def openBracket (c : Config) : List Item :=
  match c.mode with
  | .sw => [.act (.cs true), .act (.delay c.tSettleUs)]
  | .hw => [.act .txnBegin, .act (.cs true), .act (.delay c.tSettleUs)]

/-- `CLOSE_SW` and `CLOSE_HW` (R165). -/
def closeBracket (c : Config) : List Item :=
  match c.mode with
  | .sw => [.act (.delay c.tSettleUs), .act (.cs false)]
  | .hw => [.act (.delay c.tSettleUs), .act (.cs false), .act .txnEnd]

/-- `conv(body) = OPEN ++ body ++ CLOSE` (R191). -/
def conversation (c : Config) (body : List Item) : List Item := openBracket c ++ body ++ closeBracket c

/-- A byte may be transferred: a conversation is open (R160) and, in HW mode, its transaction too (R162). -/
def State.canTransfer (s : State) : Bool :=
  s.phase == .conversation && s.scs && (s.cfg.mode == .sw || s.txnOpenBit)

/-- The byte engine takes a byte: its 25 actions go to the head of PEND and the first is performed (R40, R161; log 11). -/
def sendByte (b : Byte) (s : State) : Host.Outcome State Fault Refusal :=
  if s.canTransfer then .next (State.advance { s with pend := (xfer b).map Item.act ++ s.pend })
  else .fault .transferOutsideConversation

end Sys2Proof.Machine
end

