-- ==== Sys2Proof/Machine/Conversation.lean ====
section
/-! DEFINITION. The meanings of REFRESH, CLEARDISP and VCOMTOG (42_conversations.md R190 to R197): each, once past its
checks, opens the conversation by loading its action list into PEND; the sequencer then performs it action by action. -/

namespace Sys2Proof.Machine

/-- The command byte with the VCOM of now, before this conversation's toggle (R192). -/
def commandItem (flag : Byte) (s : State) : Item := .byte .command (commandByte flag s.vcom)

/-- `TOGGLE_VCOM` in the list (R191). -/
def toggleItem : Item := .act .toggleVcom

/-- The zero byte in the list (R103). -/
def zeroItem : Item := .byte .zero 0x00#8

/-- The address byte of a line (R101). -/
def lineItem (r : Nat) : Item := .byte .lineAddr (BitVec.ofNat 8 r)

/-- The loop of R193 step 5, on `bytesSentSoFar` and `previousLine`; `fuel` is the number of bytes still to send. The count
is advanced before `currentLine` is computed (90_conflicts.md C8). -/
def refreshLoop (c : Config) (fb : Nat → Byte) : (fuel bytesSentSoFar previousLine : Nat) → List Item
  | 0, _, _ => []
  | fuel + 1, sent, prev =>
      let currentLine := (sent + 1) / c.rowBytes + 1
      .byte .data (fb sent) ::
        (if currentLine ≠ prev then
          zeroItem :: ((if currentLine ≤ c.height then [lineItem currentLine] else [])
            ++ refreshLoop c fb fuel (sent + 1) currentLine)
        else refreshLoop c fb fuel (sent + 1) prev)

/-- Steps 2 to 6 of REFRESH (R193). -/
def refreshBody (s : State) : List Item :=
  [commandItem writeCommand s, toggleItem, lineItem 1]
    ++ refreshLoop s.cfg s.byteAt s.cfg.fbSize 0 1 ++ [zeroItem]

/-- Steps 3 to 5 of CLEARDISP (R196). -/
def clearBody (s : State) : List Item := [commandItem clearCommand s, zeroItem, toggleItem]

/-- Steps 2 to 4 of VCOMTOG (R197). -/
def toggleBody (s : State) : List Item := [commandItem writeCommand s, toggleItem, zeroItem]

/-- Open a conversation with the given list (R190): PHASE <- OPEN, PEND loaded. -/
def State.openWith (s : State) (l : List Item) : State := { s with phase := .conversation, pend := l }

/-- `REFRESH` (R193). -/
def execRefresh (s : State) : Host.Outcome State Fault Refusal :=
  requireTransport s (.next (s.openWith (conversation s.cfg (refreshBody s))))

/-- `CLEARDISP` (R196): the buffer is cleared first, by an action of the list. -/
def execClearDisp (s : State) : Host.Outcome State Fault Refusal :=
  requireTransport s (.next (s.openWith (.act .fbClear :: conversation s.cfg (clearBody s))))

/-- `VCOMTOG` (R197). -/
def execVcomTog (s : State) : Host.Outcome State Fault Refusal :=
  requireTransport s (.next (s.openWith (conversation s.cfg (toggleBody s))))

end Sys2Proof.Machine
end

