-- ==== Sys2Proof/Machine/Operands.lean ====
section
/-! DEFINITION. The operand forms: logical dimensions, range check, rotation transform, bit location
(40_pixel_addressing.md R130 to R135), and the operand assembly of R94. -/

namespace Sys2Proof.Machine

/-- `sext_16` (R94): the signed value of a coordinate field. -/
def coordValue (f : CoordField) : Int := f.toInt

/-- `LW` (R131). -/
def logicalWidth (c : Config) (rot : RotState) : Nat := if rot.getLsbD 0 then c.height else c.width

/-- `LH` (R131). -/
def logicalHeight (c : Config) (rot : RotState) : Nat := if rot.getLsbD 0 then c.width else c.height

/-- `InRange(x, y)` (R132), on signed integers against the logical dimensions. -/
def inRange (c : Config) (rot : RotState) (x y : Int) : Bool :=
  decide (0 ≤ x) && decide (x < logicalWidth c rot) && decide (0 ≤ y) && decide (y < logicalHeight c rot)

/-- `phys(x, y)` (R133). -/
def phys (c : Config) (rot : RotState) (x y : Nat) : Nat × Nat :=
  match rot.toNat with
  | 0 => (x, y)
  | 1 => (c.width - 1 - y, x)
  | 2 => (c.width - 1 - x, c.height - 1 - y)
  | _ => (y, c.height - 1 - x)

/-- The inverse transform `inv` (R134 (b)); under another rotation than the one that set a pixel, where it is read back
(R141 (e)). -/
def physInv (c : Config) (rot : RotState) (x' y' : Nat) : Nat × Nat :=
  match rot.toNat with
  | 0 => (x', y')
  | 1 => (y', c.width - 1 - x')
  | 2 => (c.width - 1 - x', c.height - 1 - y')
  | _ => (c.height - 1 - y', x')

/-- The bit index of a physical pixel (R61). -/
def bitIndex (c : Config) (p : Nat × Nat) : Nat := p.2 * c.width + p.1

/-- `loc(x, y)` (R135): byte address and bit number. -/
def loc (c : Config) (rot : RotState) (x y : Nat) : Nat × Nat :=
  let i := bitIndex c (phys c rot x y)
  (i / 8, i % 8)

/-- The location two coordinate fields name on an instance under a rotation; none when they are out of range (R130).
SETPIXEL and GETPIXEL both find their bit here, which is what laws (a), (b) and (d) of R141 rest on. -/
def pixelLoc (c : Config) (rot : RotState) (x y : CoordField) : Option (Nat × Nat) :=
  if inRange c rot (coordValue x) (coordValue y) then
    some (loc c rot (coordValue x).toNat (coordValue y).toNat)
  else none

/-- A byte with one bit replaced and the others kept (R69, R138; R141 (a), (d)). -/
def withBit (b : Byte) (k : Nat) (v : Bool) : Byte :=
  if v then b ||| (1#8 <<< k) else b &&& ~~~(1#8 <<< k)

/-- One bit of a byte, as a response's data (R139). -/
def bitData (b : Byte) (k : Nat) : BitVec 32 := ((b >>> k) &&& 1#8).setWidth 32

end Sys2Proof.Machine
end

