-- ==== Sys2Proof/Machine/Pixel.lean ====
section
/-! DEFINITION. The meanings of SETROT, GETDIM, SETPIXEL, GETPIXEL and CLEARBUF (40_pixel_addressing.md R136 to R141). -/

namespace Sys2Proof.Machine

/-- `SETROT r` (R136). -/
def execSetRot (r : RotState) (s : State) : Host.Outcome State Fault Refusal :=
  requireInit s (.next (State.respond { s with rot := r } 0#32))

/-- `GETDIM` (R137): LW in 31:16, LH in 15:0. -/
def execGetDim (s : State) : Host.Outcome State Fault Refusal :=
  requireInit s
    (.next (s.respond (BitVec.ofNat 16 (logicalWidth s.cfg s.rot) ++ BitVec.ofNat 16 (logicalHeight s.cfg s.rot))))

/-- `SETPIXEL x, y, v` (R138): a no-op out of range. The writing half of laws (a), (b), (d) and (e) of R141. -/
def execSetPixel (x y : CoordField) (v : Bool) (s : State) : Host.Outcome State Fault Refusal :=
  requireInit s
    (match pixelLoc s.cfg s.rot x y with
     | none => .next (s.respond 0#32)
     | some (a, k) =>
         match s.memRead a with
         | .error f => .fault f
         | .ok b =>
             match s.memWrite a (withBit b k v) with
             | .error f => .fault f
             | .ok t => .next (t.respond 0#32))

/-- `GETPIXEL x, y` (R139): 0 out of range. The reading half of laws (a) to (e) of R141. -/
def execGetPixel (x y : CoordField) (s : State) : Host.Outcome State Fault Refusal :=
  requireInit s
    (match pixelLoc s.cfg s.rot x y with
     | none => .next (s.respond 0#32)
     | some (a, k) =>
         match s.memRead a with
         | .error f => .fault f
         | .ok b => .next (s.respond (bitData b k)))

/-- `CLEARBUF` (R140); the writing half of law (c) of R141. -/
def execClearBuf (s : State) : Host.Outcome State Fault Refusal :=
  requireInit s (.next (s.clearBuffer.respond 0#32))

end Sys2Proof.Machine
end

