-- ==== Sys2Proof/Machine/System.lean ====
section
/-! DEFINITION. The meanings of INIT, SHUTDOWN and RDSTAT (43_system.md R231 to R233). -/

namespace Sys2Proof.Machine

/-- INIT's success (R231): VCOM loaded, INITED and, in HW mode, SPI_HELD set, data 1. -/
def State.initDone (s : State) : State :=
  State.respond (State.writeSpiHeld { s with vcom := s.cfg.vcomInit, inited := true } true) 1#32

/-- INIT's failure (R231, R256): INITED and SPI_HELD cleared, data 0, no fault. -/
def State.initFailed (s : State) : State :=
  State.respond (State.writeSpiHeld { s with inited := false } false) 0#32

/-- INIT in HW mode with the sampled answer. -/
def State.initWith (p : Bool × State) : State := if p.1 then p.2.restPins.initDone else p.2.restPins.initFailed

/-- `INIT` (R231): in SW mode it cannot fail; in HW mode INIT_OK is sampled once. -/
def execInit (s : State) : Host.Outcome State Fault Refusal :=
  .next (if s.cfg.mode = .sw then s.restPins.initDone else State.initWith s.sampleInitOk)

/-- `SHUTDOWN` (R232): releases the peripheral in HW mode, no-op in SW mode. -/
def execShutdown (s : State) : Host.Outcome State Fault Refusal :=
  requireInit s (.next ((s.writeSpiHeld false).respond 0#32))

/-- `RDSTAT` (R233). -/
def execRdStat (s : State) : Host.Outcome State Fault Refusal := .next (s.respond s.statusWord)

end Sys2Proof.Machine
end

