-- ==== Sys2Proof/Machine/Wire.lean ====
section
/-! DEFINITION. The meanings of the five wire items (30_encoding.md R97 to R103): each is a byte the engine clocks out. -/

namespace Sys2Proof.Machine

/-- `wire.CMD_WRITE` (R99): 0x01 or 0x03. -/
def execWireCmdWrite (v : Bool) (s : State) : Host.Outcome State Fault Refusal := sendByte (commandByte writeCommand v) s

/-- `wire.CMD_CLEAR` (R99): 0x04 or 0x06. -/
def execWireCmdClear (v : Bool) (s : State) : Host.Outcome State Fault Refusal := sendByte (commandByte clearCommand v) s

/-- `wire.LINE_ADDR` (R101): the 1-based line number. R101 says it is never greater than H and gives such a byte no effect; DESIGN
CHOICE (log 23): met in PEND, where no command puts it, it is clocked out like any other byte. -/
def execWireLineAddr (a : Byte) (s : State) : Host.Outcome State Fault Refusal := sendByte a s

/-- `wire.DATA` (R102): the frame-buffer byte unchanged. -/
def execWireData (d : Byte) (s : State) : Host.Outcome State Fault Refusal := sendByte d s

/-- `wire.ZERO` (R103): 0x00. -/
def execWireZero (s : State) : Host.Outcome State Fault Refusal := sendByte 0x00#8 s

end Sys2Proof.Machine
end

