-- ==== Sys2Proof/Machine/Dispatch.lean ====
section
/-! DEFINITION. One arm per instruction: an accepted host command, or a wire item taken by the byte engine. -/

namespace Sys2Proof.Machine

def exec (i : Instr) (s : State) : Host.Outcome State Fault Refusal :=
  match i with
  | .init => Sys2Proof.Machine.execInit s
  | .shutdown => Sys2Proof.Machine.execShutdown s
  | .setRot r => Sys2Proof.Machine.execSetRot r s
  | .setPixel x y v => Sys2Proof.Machine.execSetPixel x y v s
  | .getPixel x y => Sys2Proof.Machine.execGetPixel x y s
  | .clearBuf => Sys2Proof.Machine.execClearBuf s
  | .refresh => Sys2Proof.Machine.execRefresh s
  | .clearDisp => Sys2Proof.Machine.execClearDisp s
  | .vcomTog => Sys2Proof.Machine.execVcomTog s
  | .getDim => Sys2Proof.Machine.execGetDim s
  | .rdStat => Sys2Proof.Machine.execRdStat s
  | .wireCmdWrite v => Sys2Proof.Machine.execWireCmdWrite v s
  | .wireCmdClear v => Sys2Proof.Machine.execWireCmdClear v s
  | .wireLineAddr a => Sys2Proof.Machine.execWireLineAddr a s
  | .wireData d => Sys2Proof.Machine.execWireData d s
  | .wireZero => Sys2Proof.Machine.execWireZero s

end Sys2Proof.Machine
end

