-- ==== Sys2Proof/Machine/Sequencer.lean ====
section
/-! DEFINITION. What the sequencer does at one step (10_state.md R34, R36, R38 to R41): reset, hold, accept a command, or
perform the next action of PEND. `Machine/Step.lean` only calls this. -/

namespace Sys2Proof.Machine

/-- What a step turns out to be. -/
inductive Turn where
  /-- The step is done: reset, nothing presented, an illegal word's fault, or an action of PEND. -/
  | done (s : State)
  /-- An instruction is executed at the given state. -/
  | run (i : Instr) (s : State)
  /-- PEND holds a byte its place does not allow. -/
  | stuck

/-- What every step begins with: the observation index moves on, the RST level of this step is taken from its stream, and
`rsp_valid` goes back to 0 unless this step produces a response (log 9). -/
def State.tick (s : State) : State := { s with now := s.now + 1, rspValid := false, rstIn := s.rstIn.tail }

/-- PHASE = IDLE: accept the word the host presents, if there is one (R34); a word that matches no row raises
IllegalCommand (R96, R252). -/
def State.acceptCommand (s : State) : Turn :=
  match s.cmds with
  | [] => .done s
  | w :: rest =>
      match decode (.host w) with
      | .ok i => .run i { s with cmds := rest }
      | .error _ => .done (State.raise { s with cmds := rest } .illegalCommand)

/-- PHASE = OPEN: no command is accepted (R41); the head of PEND is performed (R40), a byte by the engine. PEND is empty only
when PHASE is IDLE (R39); a state that breaks this ends its conversation (log 20). -/
def State.continueConversation (s : State) : Turn :=
  match s.pend with
  | [] => .done s.settle
  | .act _ :: _ => .done s.advance
  | .byte k b :: rest =>
      match decode (.wire k b) with
      | .ok i => .run i { s with pend := rest }
      | .error _ => .stuck

/-- One step of the sequencer. RST overrides everything (R255, R280). -/
def State.turn (s : State) : Turn :=
  if s.rstLevel then .done s.tick.applyReset
  else
    match s.phase with
    | .idle => s.tick.acceptCommand
    | .conversation => s.tick.continueConversation

/-- The RST stream with this step's level low. -/
def rstLow : List Bool → List Bool
  | [] => []
  | _ :: rest => false :: rest

/-- Put a code where the coming step takes its instruction: a host word is presented with PHASE = IDLE; a wire byte is at the
head of PEND of an open conversation that it ends (log 13). -/
def State.withCode (s : State) : Code → State
  | .host w => { s with phase := .idle, pend := [], cmds := w :: s.cmds, rstIn := rstLow s.rstIn }
  | .wire k b =>
      { s with phase := .conversation, pend := .byte k b :: closeBracket s.cfg, scs := true,
               txnOpen := modeBit s.cfg.mode, rstIn := rstLow s.rstIn }

end Sys2Proof.Machine
end

