-- ==== Sys2Proof/Machine/Step.lean ====
section
/-! DEFINITION. One step of the machine, and where its next instruction is placed. -/

namespace Sys2Proof.Machine

/-- One step (R40, R41): what the sequencer's turn is, with the instruction, if there is one, executed. -/
def step (s : State) : Host.Outcome State Fault Refusal :=
  match s.turn with
  | .done t => .next t
  | .run i t => exec i t
  | .stuck => .refused .unsendableWireItem

/-- `s` with a table row's bits stored where `step` takes its next instruction. -/
def State.withFetchWord (s : State) (nbits w : Nat) : State :=
  match tableCode nbits w with
  | some c => s.withCode c
  | none => s

end Sys2Proof.Machine
end

