-- ==== Sys2Proof/Machine/Observe.lean ====
section
/-! DEFINITION. What an outside observer makes of a run (00_scope.md R14; 41_serial_transport.md R166): the waveform without
stutter, the responses, and the bytes a listener on the three pins recovers. No step reads any of this. -/

namespace Sys2Proof.Machine

/-- The pin levels of an observation, if it is one of pins. -/
def Obs.pins? : Obs → Option Pins
  | .pins p => some p
  | _ => none

/-- The response word of an observation, if it is one. -/
def Obs.response? : Obs → Option RspWord
  | .response r => some r
  | _ => none

/-- Consecutive equal pin triples merged; marks and responses keep their places (R14). `last` is the triple before the list. -/
def mergePins (last : Pins) : List Obs → List Obs
  | [] => []
  | .pins p :: l => if p = last then mergePins last l else .pins p :: mergePins p l
  | o :: l => o :: mergePins last l

/-- The responses of a run, in order (R35). -/
def State.responses (s : State) : List RspWord := s.trace.filterMap Obs.response?

/-- A listener on the pins (R166): the last triple, the samples of the conversation now open, the finished conversations. -/
structure Listener where
  last : Pins
  bits : List Bool
  heard : List (List Bool)
  deriving DecidableEq, Repr

/-- The listener before anything is seen. -/
def Listener.start : Listener := ⟨⟨false, false, false⟩, [], []⟩

/-- The listener on one pin triple: SCS rising opens a conversation, a rising edge of SCLK while SCS is 1 is a sample of SI, SCS
falling ends the conversation (R166). -/
def Listener.hearPins (l : Listener) (p : Pins) : Listener :=
  if p.scs then
    let bits := if l.last.scs then l.bits else []
    ⟨p, if p.sclk && !l.last.sclk then bits ++ [p.si] else bits, l.heard⟩
  else if l.last.scs then ⟨p, [], l.heard ++ [l.bits]⟩
  else ⟨p, l.bits, l.heard⟩

/-- The listener on one observation. -/
def Listener.hear (l : Listener) (o : Obs) : Listener :=
  match o with
  | .pins p => l.hearPins p
  | _ => l

/-- The listener after a list of observations. -/
def Listener.hearAll (l : Listener) (os : List Obs) : Listener := os.foldl Listener.hear l

/-- Samples grouped in eights, the first of a group bit 0 (R166); an incomplete group is no byte. -/
def bytesOfBits : List Bool → List Byte
  | b0 :: b1 :: b2 :: b3 :: b4 :: b5 :: b6 :: b7 :: rest =>
      BitVec.ofBoolListLE [b0, b1, b2, b3, b4, b5, b6, b7] :: bytesOfBits rest
  | _ => []

/-- The bits of a byte in sending order (R64, R97). -/
def bitsOfByte (b : Byte) : List Bool :=
  [b.getLsbD 0, b.getLsbD 1, b.getLsbD 2, b.getLsbD 3, b.getLsbD 4, b.getLsbD 5, b.getLsbD 6, b.getLsbD 7]

/-- The wire view of a run (R14, R166): the bytes of each finished conversation. -/
def State.wireView (s : State) : List (List Byte) := (Listener.start.hearAll s.trace).heard.map bytesOfBits

/-- The byte of an entry of PEND, if it is one. -/
def Item.byte? : Item → Option Byte
  | .act _ => none
  | .byte _ b => some b

/-- The bytes of a list, in sending order. -/
def wireBytes (l : List Item) : List Byte := l.filterMap Item.byte?

end Sys2Proof.Machine
end

