-- ==== Sys2Proof/Safety.lean ====
section
/-! DEFINITION. What claims call a good state and a good run: the invariants of 10_state.md R42, with what makes them
inductive, and the end of a run of 70_reset_and_hazards.md R296. -/

namespace Sys2Proof

/-- The commands that open a conversation. -/
def Instr.opensConversation : Instr → Bool
  | .init => false
  | .shutdown => false
  | .setRot _ => false
  | .setPixel _ _ _ => false
  | .getPixel _ _ => false
  | .clearBuf => false
  | .refresh => true
  | .clearDisp => true
  | .vcomTog => true
  | .getDim => false
  | .rdStat => false
  | .wireCmdWrite _ => false
  | .wireCmdClear _ => false
  | .wireLineAddr _ => false
  | .wireData _ => false
  | .wireZero => false

/-- The host commands, as against the wire items. -/
def Instr.isHostCommand (i : Instr) : Bool :=
  match encode i with
  | .host _ => true
  | .wire _ _ => false

/-- A command that needs INITED = 1 (R234). -/
def Instr.needsInit : Instr → Bool
  | .init => false
  | .shutdown => true
  | .setRot _ => true
  | .setPixel _ _ _ => true
  | .getPixel _ _ => true
  | .clearBuf => true
  | .refresh => true
  | .clearDisp => true
  | .vcomTog => true
  | .getDim => true
  | .rdStat => false
  | .wireCmdWrite _ => false
  | .wireCmdClear _ => false
  | .wireLineAddr _ => false
  | .wireData _ => false
  | .wireZero => false

/-- A word that R96 calls illegal: a reserved opcode, or a 1 in a must-be-zero bit of R92. -/
def illegalWord (w : HostWord) : Bool :=
  let op := (hostOp w).toNat
  [0, 12, 13, 14, 15].contains op
    || ([1, 2, 6, 7, 8, 9, 10, 11].contains op && (hostArg w != 0#4 || hostX w != 0#16 || hostY w != 0#16))
    || (op == 3 && ((hostArg w).extractLsb' 2 2 != 0#2 || hostX w != 0#16 || hostY w != 0#16))
    || (op == 4 && (hostArg w).extractLsb' 1 3 != 0#3)
    || (op == 5 && hostArg w != 0#4)

end Sys2Proof

namespace Sys2Proof.Machine

/-- A byte of PEND may be sent on an instance: its place allows it and it is well formed (R100, R101). -/
def sendable (c : Config) (k : WireKind) (b : Byte) : Bool :=
  match decode (.wire k b) with
  | .ok i => i.wf c
  | .error _ => false

/-- A list of actions performed from the given levels of SCS, SCLK and TXN_OPEN keeps the bracket (R42, R164, R165, R168): SCS
rises only from 0 and, in HW mode, inside a transaction, bytes and clock and data actions come only while it is 1, it falls
with the clock low, and at the end all three are 0. -/
def bracketed (c : Config) : (scs sclk txn : Bool) → List Item → Bool
  | scs, sclk, txn, [] => !scs && !sclk && !txn
  | scs, sclk, txn, .act a :: l =>
      match a with
      | .cs v => (if v then !scs && (c.mode == .sw || txn) else scs && !sclk) && bracketed c v sclk txn l
      | .clk v => scs && bracketed c scs v txn l
      | .dat _ => scs && bracketed c scs sclk txn l
      | .delay _ => bracketed c scs sclk txn l
      | .txnBegin => c.mode == .hw && !scs && !txn && bracketed c scs sclk true l
      | .txnEnd => c.mode == .hw && !scs && txn && bracketed c scs sclk false l
      | .toggleVcom => bracketed c scs sclk txn l
      | .fbClear => bracketed c scs sclk txn l
  | scs, sclk, txn, .byte k b :: l => scs && !sclk && sendable c k b && bracketed c scs sclk txn l

/-- The invariant of the machine (R42 (a), (c), (d), R39, R6), with the frame buffer in canonical form. -/
def State.inv (s : State) : Bool :=
  s.cfg.wf && Memory.wf s.cfg.resetByte s.cfg.fbSize s.fb
    && (!s.spiHeld || (s.cfg.mode == .hw && s.inited))
    && (!s.txnOpen || s.cfg.mode == .hw)
    && (s.cfg.mode == .sw || !s.scs || s.txnOpen)
    && (match s.phase with
        | .idle => s.pend.isEmpty && !s.scs && !s.sclk && !s.txnOpen
        | .conversation => !s.pend.isEmpty && bracketed s.cfg s.scs s.sclk s.txnOpen s.pend)

/-- RST stays low for the next `n` steps: a premise on the host (R295). -/
def State.rstLowFor (s : State) (n : Nat) : Bool := (s.rstIn.take n).all (fun b => !b)

/-- The run is over (R296): every presented command is accepted, and PHASE = IDLE; in a run without reset each has then produced
its response. DESIGN CHOICE (log 22): a run that reset cut short, of which R296 says nothing, is over here too as soon as no word is
presented and PHASE = IDLE, although the abandoned command gave no response. -/
def State.runOver (s : State) : Bool := s.cmds.isEmpty && s.phase == .idle

/-- The fault field of a response word (R95). -/
def rspErr (r : RspWord) : BitVec 2 := r.extractLsb' 32 2

/-- The data field of a response word (R95). -/
def rspData (r : RspWord) : BitVec 32 := r.extractLsb' 0 32

/-- The run has gone wrong (R296): some response carries a fault code. -/
def State.goneWrong (s : State) : Bool := s.responses.any (fun r => rspErr r != 0#2)

/-- The body of a conversation command (R193, R196, R197). -/
def conversationBody : Instr → State → List Item
  | .refresh, s => refreshBody s
  | .clearDisp, s => clearBody s
  | .vcomTog, s => toggleBody s
  | _, _ => []

/-- The whole of PEND that a conversation command loads. -/
def conversationList : Instr → State → List Item
  | .clearDisp, s => .act .fbClear :: conversation s.cfg (clearBody s)
  | i, s => conversation s.cfg (conversationBody i s)

/-- The preconditions of a conversation command hold (R195). -/
def State.transportReady (s : State) : Bool := s.inited && (s.cfg.mode == .sw || s.spiHeldBit)

/-- The bytes of a conversation by the grammar of R104. -/
def grammarBytes : Instr → State → List Byte
  | .refresh, s =>
      commandByte writeCommand s.vcom ::
        (List.range s.cfg.height).flatMap (fun j =>
          BitVec.ofNat 8 (j + 1) ::
            (List.range s.cfg.rowBytes).map (fun k => s.byteAt (j * s.cfg.rowBytes + k)) ++ [0x00#8])
        ++ [0x00#8]
  | .clearDisp, s => [commandByte clearCommand s.vcom, 0x00#8]
  | .vcomTog, s => [commandByte writeCommand s.vcom, 0x00#8]
  | _, _ => []

/-- One line of a refresh stream (R104). -/
def refreshLine (c : Config) (fb : Nat → Byte) (r : Nat) : List Item :=
  lineItem r :: (List.range c.rowBytes).map (fun k => .byte .data (fb ((r - 1) * c.rowBytes + k))) ++ [zeroItem]

/-- The closed form of the refresh body (R194). -/
def refreshClosed (s : State) : List Item :=
  [commandItem writeCommand s, toggleItem]
    ++ (List.range s.cfg.height).flatMap (fun j => refreshLine s.cfg s.byteAt (j + 1)) ++ [zeroItem]

end Sys2Proof.Machine
end

