-- ==== Sys2Proof/Certificates/Slice0/Obligations.lean ====
section
/-! DEFINITION. The statements for the provers. Each docstring names the rule or section of spec/ it formalises; the model's own
conventions a statement rests on are named by their log entry. -/

section
open Sys2Proof Sys2Proof.Machine

/-! ### Encodings (30_encoding.md) -/

/-- Words written out from the spec's encodings decode to the instructions they stand for (R93, R99, vectors E1 to E25). -/
def Obligations.SpecWordsDecode : Prop :=
  decode (.host 0x1000000000#40) = .ok .init ∧
  decode (.host 0x2000000000#40) = .ok .shutdown ∧
  decode (.host 0x3300000000#40) = .ok (.setRot 3#2) ∧
  decode (.host 0x41FFFF0000#40) = .ok (.setPixel 0xFFFF#16 0#16 true) ∧
  decode (.host 0x507FFF8000#40) = .ok (.getPixel 0x7FFF#16 0x8000#16) ∧
  decode (.host 0x7000000000#40) = .ok .refresh ∧
  decode (.host 0x7000000001#40) = .error .mustBeZeroBit ∧
  decode (.host 0xC000000000#40) = .error .reservedOpcode ∧
  decode (.wire .command 0x03#8) = .ok (.wireCmdWrite true) ∧
  decode (.wire .command 0x06#8) = .ok (.wireCmdClear true) ∧
  decode (.wire .command 0x05#8) = .error .unsentCommandByte

/-- Decoding the encoding of a well-formed instruction gives the instruction back, with every operand at every value. -/
def Obligations.DecodeOfEncode : Prop :=
  ∀ (c : Config) (i : Instr), i.wf c = true → decode (encode i) = .ok i

/-- What decodes, decodes from its own encoding only: no bit of a word is ignored. -/
def Obligations.EncodeOfDecode : Prop :=
  ∀ (code : Code) (i : Instr), decode code = .ok i → encode i = code

/-- The host decoder is the match and mask table of R93: a word decodes to the command of the row it matches, at most one row
matches, no row is an error, and the free bits are the operands. -/
def Obligations.DecoderIsTheMatchMaskTable : Prop :=
  ∀ w : HostWord,
    (∀ r ∈ hostRows, r.matchesWord w = true → ∃ i, decode (.host w) = .ok i ∧ i.mnemonic = r.mnemonic) ∧
    (∀ r ∈ hostRows, ∀ r' ∈ hostRows, r.matchesWord w = true → r'.matchesWord w = true → r = r') ∧
    ((∀ r ∈ hostRows, r.matchesWord w = false) → ∃ e, decode (.host w) = .error e) ∧
    (∀ r, decode (.host w) = .ok (.setRot r) → r = w.extractLsb' 32 2) ∧
    (∀ x y v, decode (.host w) = .ok (.setPixel x y v) →
      x = w.extractLsb' 16 16 ∧ y = w.extractLsb' 0 16 ∧ v = w.getLsbD 32) ∧
    (∀ x y, decode (.host w) = .ok (.getPixel x y) → x = w.extractLsb' 16 16 ∧ y = w.extractLsb' 0 16)

/-- Exactly the words R96 calls illegal are refused, and such a word, accepted in any state, raises IllegalCommand, code 1: no
state but FAULT changes, no pin moves, and only the code is recorded (R96, R252; R251). That the step also counts `now` (log 8), takes a level off
`rstIn` (log 6) and lists the response in `trace` (log 16) is the model's choice, no rule's, so the statement is derived. -/
def Obligations.IllegalWordRaisesIllegalCommand : Prop :=
  ∀ w : HostWord,
    ((∃ e, decode (.host w) = .error e) ↔ illegalWord w = true) ∧
    ∀ (s : State) (rest : List HostWord), illegalWord w = true → s.rstLevel = false → s.phase = .idle →
      s.cmds = w :: rest →
      step s = .next { s with
        cmds := rest, rstIn := s.rstIn.tail, now := s.now + 1,
        fault := if s.fault = 0#2 then 1#2 else s.fault,
        rspValid := true, rsp := 1#2 ++ 0#32, trace := s.trace ++ [.response (1#2 ++ 0#32)] }

/-- The first byte of every conversation is `flag | VCOM << 1` with the VCOM of acceptance, and is one of the four command
bytes (R192, R99). -/
def Obligations.CommandByteCarriesVcom : Prop :=
  ∀ s : State, s.transportReady = true →
    (∃ t, exec .refresh s = .next t ∧
      (wireBytes t.pend).head? = some (if s.vcom then 0x03#8 else 0x01#8)) ∧
    (∃ t, exec .vcomTog s = .next t ∧
      (wireBytes t.pend).head? = some (if s.vcom then 0x03#8 else 0x01#8)) ∧
    (∃ t, exec .clearDisp s = .next t ∧
      (wireBytes t.pend).head? = some (if s.vcom then 0x06#8 else 0x04#8))

/-! ### Pixel addressing (40_pixel_addressing.md) -/

/-- LW and LH follow the rotation (R131). -/
def Obligations.LogicalDimensionsFollowRotation : Prop :=
  ∀ c : Config, c.wf = true →
    (∀ rot : RotState, rot = 0#2 ∨ rot = 2#2 → logicalWidth c rot = c.width ∧ logicalHeight c rot = c.height) ∧
    (∀ rot : RotState, rot = 1#2 ∨ rot = 3#2 → logicalWidth c rot = c.height ∧ logicalHeight c rot = c.width) ∧
    (∀ rot : RotState, logicalWidth c rot ≤ 32760 ∧ logicalHeight c rot ≤ 32760)

/-- The range check (R132): on signed integers, against the logical dimensions of the current rotation; failing it is no fault:
SETPIXEL and GETPIXEL then complete with data 0 and change nothing (R132; also law (b) of R141). -/
def Obligations.RangeCheckIsSignedAndLogical : Prop :=
  (∀ (c : Config) (rot : RotState) (x y : CoordField),
    (pixelLoc c rot x y).isSome = true ↔
      (0 ≤ x.toInt ∧ x.toInt < logicalWidth c rot ∧ 0 ≤ y.toInt ∧ y.toInt < logicalHeight c rot)) ∧
  ∀ (s : State) (x y : CoordField) (v : Bool), s.inited = true → (pixelLoc s.cfg s.rot x y).isSome = false →
    exec (.setPixel x y v) s = .next (s.respond 0#32) ∧ exec (.getPixel x y) s = .next (s.respond 0#32)

/-- The rotation transform is the table of R133, on integers, for every in-range pixel. -/
def Obligations.RotationTransformIsTheTable : Prop :=
  ∀ (c : Config) (rot : RotState) (x y : Nat), x < logicalWidth c rot → y < logicalHeight c rot →
    (((phys c rot x y).1 : Int), ((phys c rot x y).2 : Int)) =
      if rot = 0#2 then ((x : Int), (y : Int))
      else if rot = 1#2 then ((c.width : Int) - 1 - y, (x : Int))
      else if rot = 2#2 then ((c.width : Int) - 1 - x, (c.height : Int) - 1 - y)
      else ((y : Int), (c.height : Int) - 1 - x)

/-- For each rotation `phys` is a bijection from the logical onto the physical pixels, with the inverse the spec derives (section 1,
"Properties of the transform", (a) and (b), marked there as derived from R131 to R133). -/
def Obligations.RotationIsABijection : Prop :=
  ∀ (c : Config) (rot : RotState),
    (∀ x y, x < logicalWidth c rot → y < logicalHeight c rot →
      (phys c rot x y).1 < c.width ∧ (phys c rot x y).2 < c.height ∧
      physInv c rot (phys c rot x y).1 (phys c rot x y).2 = (x, y)) ∧
    (∀ x' y', x' < c.width → y' < c.height →
      (physInv c rot x' y').1 < logicalWidth c rot ∧ (physInv c rot x' y').2 < logicalHeight c rot ∧
      phys c rot (physInv c rot x' y').1 (physInv c rot x' y').2 = (x', y'))

/-- The bit location of R135 in both of its forms, and that an in-range pixel's byte is always in the buffer, which the spec
derives from (a) of the transform's properties. -/
def Obligations.PixelLocationStaysInTheBuffer : Prop :=
  ∀ (c : Config) (rot : RotState) (x y : Nat), c.wf = true →
    x < logicalWidth c rot → y < logicalHeight c rot →
    let p := phys c rot x y
    loc c rot x y = ((p.2 * c.width + p.1) / 8, (p.2 * c.width + p.1) % 8) ∧
    loc c rot x y = (p.2 * c.rowBytes + p.1 / 8, p.1 % 8) ∧
    (loc c rot x y).1 < c.fbSize

/-- SETPIXEL then GETPIXEL of an in-range pixel under the same rotation returns the value set (40_pixel_addressing.md section 3,
law (a) of R141, marked there as derived). -/
def Obligations.SetThenGetReturnsTheValue : Prop :=
  ∀ (s : State) (x y : CoordField) (v : Bool), s.cfg.wf = true → s.inited = true →
    (pixelLoc s.cfg s.rot x y).isSome = true →
    ∃ t u, exec (.setPixel x y v) s = .next t ∧ exec (.getPixel x y) t = .next u ∧
      rspErr u.rsp = 0#2 ∧ rspData u.rsp = (if v then 1#32 else 0#32)

/-- After CLEARBUF every in-range GETPIXEL under every rotation returns 1 (law (c) of R141). -/
def Obligations.ClearedBufferReadsInactive : Prop :=
  ∀ (s : State) (r : RotState) (x y : CoordField), s.cfg.wf = true → s.inited = true →
    (pixelLoc s.cfg r x y).isSome = true →
    ∃ t u z, exec .clearBuf s = .next t ∧ exec (.setRot r) t = .next u ∧ exec (.getPixel x y) u = .next z ∧
      rspErr z.rsp = 0#2 ∧ rspData z.rsp = 1#32

/-- SETPIXEL of one in-range pixel changes GETPIXEL of no other in-range pixel under the same rotation
(law (d) of R141). -/
def Obligations.SetPixelLeavesOtherPixels : Prop :=
  ∀ (s : State) (x y x2 y2 : CoordField) (v : Bool), s.cfg.wf = true → s.inited = true →
    (pixelLoc s.cfg s.rot x y).isSome = true → (pixelLoc s.cfg s.rot x2 y2).isSome = true → (x2, y2) ≠ (x, y) →
    ∃ t u u0, exec (.setPixel x y v) s = .next t ∧ exec (.getPixel x2 y2) t = .next u ∧
      exec (.getPixel x2 y2) s = .next u0 ∧ u.rsp = u0.rsp

/-- A pixel set under one rotation is read back under another at `inv (phys (x, y))` (law (e) of R141). -/
def Obligations.PixelIsFoundUnderEveryRotation : Prop :=
  ∀ (s : State) (r : RotState) (x y : CoordField) (v : Bool), s.cfg.wf = true → s.inited = true →
    (pixelLoc s.cfg s.rot x y).isSome = true →
    let p := phys s.cfg s.rot x.toNat y.toNat
    let q := physInv s.cfg r p.1 p.2
    ∃ t u z, exec (.setPixel x y v) s = .next t ∧ exec (.setRot r) t = .next u ∧
      exec (.getPixel (BitVec.ofNat 16 q.1) (BitVec.ofNat 16 q.2)) u = .next z ∧
      rspErr z.rsp = 0#2 ∧ rspData z.rsp = (if v then 1#32 else 0#32)

/-! ### What the commands do -/

/-- A response is `err` in 33:32 and `data` in 31:0 on the response port (R95, R35); `raise F` keeps the first code in FAULT,
responds with F's code and data 0, and changes nothing else (R251). That rsp_valid is a level set by the response (log 9) and
that the response is listed in `trace` (log 16) are the model's choices, so the statement is derived. -/
def Obligations.RespondAndRaise : Prop :=
  FaultKind.code .illegalCommand = 1#2 ∧ FaultKind.code .notInitialized = 2#2 ∧
  FaultKind.code .transportReleased = 3#2 ∧
  (∀ (s : State) (d : BitVec 32), s.respond d =
    { s with rspValid := true, rsp := 0#2 ++ d, trace := s.trace ++ [.response (0#2 ++ d)] }) ∧
  (∀ (s : State) (f : FaultKind), s.raise f =
    { s with fault := if s.fault = 0#2 then f.code else s.fault,
             rspValid := true, rsp := f.code ++ 0#32, trace := s.trace ++ [.response (f.code ++ 0#32)] })

/-- The precondition table (R234) in its order: with INITED = 0 every command but INIT and RDSTAT raises NotInitialized (R253); with
INITED = 1, HW mode and SPI_HELD = 0 the three conversation commands raise TransportReleased (R254); in every other case no
command raises. -/
def Obligations.PreconditionsRaiseInOrder : Prop :=
  ∀ (i : Instr) (s : State),
    (i.needsInit = true → s.inited = false → exec i s = .next (s.raise .notInitialized)) ∧
    (i.opensConversation = true → s.inited = true → s.cfg.mode = .hw → s.spiHeld = false →
      exec i s = .next (s.raise .transportReleased)) ∧
    (i.isHostCommand = true → (i.needsInit = true → s.inited = true) →
      (i.opensConversation = true → s.cfg.mode = .hw → s.spiHeld = true) → ∀ f, exec i s ≠ .next (s.raise f))

/-- SETROT (R136): ROT is written, the buffer and everything else is not, response 0; un-initialised it raises. -/
def Obligations.SetRotWritesRot : Prop :=
  ∀ (s : State) (r : RotState),
    (s.inited = true → exec (.setRot r) s = .next (State.respond { s with rot := r } 0#32)) ∧
    (s.inited = false → exec (.setRot r) s = .next (s.raise .notInitialized))

/-- GETDIM (R137): LW in data[31:16], LH in data[15:0]; nothing written; un-initialised it raises. -/
def Obligations.GetDimReportsLogicalDimensions : Prop :=
  ∀ s : State, s.cfg.wf = true →
    (s.inited = true → ∃ d, exec .getDim s = .next (s.respond d) ∧
      (d.extractLsb' 16 16).toNat = logicalWidth s.cfg s.rot ∧
      (d.extractLsb' 0 16).toNat = logicalHeight s.cfg s.rot) ∧
    (s.inited = false → exec .getDim s = .next (s.raise .notInitialized))

/-- SETPIXEL (R138). In range: exactly bit k of byte a becomes v, every other bit of the buffer and every other register is as
before, response 0. Out of range: a no-op with the same response. Un-initialised it raises. -/
def Obligations.SetPixelWritesOneBit : Prop :=
  ∀ (s : State) (x y : CoordField) (v : Bool), s.cfg.wf = true →
    (∀ a k, s.inited = true → pixelLoc s.cfg s.rot x y = some (a, k) →
      ∃ t, exec (.setPixel x y v) s = .next t ∧
        t = State.respond { s with fb := t.fb } 0#32 ∧
        ∀ a' k', k' < 8 →
          (t.byteAt a').getLsbD k' = (if a' = a ∧ k' = k then v else (s.byteAt a').getLsbD k')) ∧
    (s.inited = true → pixelLoc s.cfg s.rot x y = none → exec (.setPixel x y v) s = .next (s.respond 0#32)) ∧
    (s.inited = false → exec (.setPixel x y v) s = .next (s.raise .notInitialized))

/-- GETPIXEL (R139). In range: the bit in data[0], zero above. Out of range: 0. Nothing written. Un-initialised it raises. -/
def Obligations.GetPixelReadsOneBit : Prop :=
  ∀ (s : State) (x y : CoordField), s.cfg.wf = true →
    (∀ a k, s.inited = true → pixelLoc s.cfg s.rot x y = some (a, k) →
      exec (.getPixel x y) s = .next (s.respond (if (s.byteAt a).getLsbD k then 1#32 else 0#32))) ∧
    (s.inited = true → pixelLoc s.cfg s.rot x y = none → exec (.getPixel x y) s = .next (s.respond 0#32)) ∧
    (s.inited = false → exec (.getPixel x y) s = .next (s.raise .notInitialized))

/-- CLEARBUF (R140): every byte of the buffer reads 0xFF, nothing else changes, no pin action; un-initialised it raises. -/
def Obligations.ClearBufSetsEveryByte : Prop :=
  ∀ s : State,
    (s.inited = true →
      ∃ t, exec .clearBuf s = .next t ∧ t = State.respond { s with fb := t.fb } 0#32 ∧
        ∀ a, a < s.cfg.fbSize → t.byteAt a = 0xFF#8) ∧
    (s.inited = false → exec .clearBuf s = .next (s.raise .notInitialized))

/-- The three conversation commands: past their checks PHASE <- OPEN (R190) and PEND holds the command's body (R193, R196, R197)
between OPEN and CLOSE of the mode (R191, R164, R165); nothing else changes before the first action. REFRESH's line loop stands
here folded as `refreshLoop`: that its list holds exactly one TOGGLE_VCOM is said by OneSelectAndOneTogglePerConversation. That
the opening is a step of its own and the actions follow one a step is the model's reading (log 10), so the statement is derived. -/
def Obligations.ConversationCommandsLoadTheirList : Prop :=
  ∀ s : State, s.transportReady = true →
    let op := match s.cfg.mode with
      | .sw => [Item.act (.cs true), .act (.delay s.cfg.tSettleUs)]
      | .hw => [Item.act .txnBegin, .act (.cs true), .act (.delay s.cfg.tSettleUs)]
    let cl := match s.cfg.mode with
      | .sw => [Item.act (.delay s.cfg.tSettleUs), .act (.cs false)]
      | .hw => [Item.act (.delay s.cfg.tSettleUs), .act (.cs false), .act .txnEnd]
    let v : Byte := if s.vcom then 0x02#8 else 0x00#8
    exec .refresh s = .next { s with phase := .conversation, pend :=
      op ++ ([.byte .command (0x01#8 ||| v), .act .toggleVcom, .byte .lineAddr 1#8]
        ++ refreshLoop s.cfg s.byteAt s.cfg.fbSize 0 1 ++ [.byte .zero 0#8]) ++ cl } ∧
    exec .clearDisp s = .next { s with phase := .conversation, pend :=
      [.act .fbClear] ++ op ++ [.byte .command (0x04#8 ||| v), .byte .zero 0#8, .act .toggleVcom] ++ cl } ∧
    exec .vcomTog s = .next { s with phase := .conversation, pend :=
      op ++ [.byte .command (0x01#8 ||| v), .act .toggleVcom, .byte .zero 0#8] ++ cl }

/-- INIT (R231). In SW mode it cannot fail. In HW mode INIT_OK is sampled once: 1 acquires the peripheral, 0 leaves the controller
un-initialised with data 0 and no fault. SCS, and in SW mode SCLK, are driven to 0; from their rest levels that is no pin edge.
FB, ROT and FAULT are not touched. -/
def Obligations.InitStartsASession : Prop :=
  ∀ s : State,
    (s.cfg.mode = .sw → ∃ t, exec .init s = .next t ∧
      t = { s with scs := false, sclk := false, vcom := s.cfg.vcomInit, inited := true,
                   rspValid := true, rsp := 0#2 ++ 1#32, trace := t.trace } ∧
      (s.scs = false → s.sclk = false → t.trace = s.trace ++ [.response (0#2 ++ 1#32)])) ∧
    (s.cfg.mode = .hw → ∀ rest, s.initOkIn = true :: rest → ∃ t, exec .init s = .next t ∧
      t = { s with initOkIn := rest, scs := false, vcom := s.cfg.vcomInit, inited := true, spiHeld := true,
                   rspValid := true, rsp := 0#2 ++ 1#32, trace := t.trace } ∧
      (s.scs = false → t.trace = s.trace ++ [.response (0#2 ++ 1#32)])) ∧
    (s.cfg.mode = .hw → ∀ rest, s.initOkIn = false :: rest → ∃ t, exec .init s = .next t ∧
      t = { s with initOkIn := rest, scs := false, inited := false, spiHeld := false,
                   rspValid := true, rsp := 0#2 ++ 0#32, trace := t.trace } ∧
      (s.scs = false → t.trace = s.trace ++ [.response (0#2 ++ 0#32)]))

/-- The model's choice (log 7): where the stream of INIT_OK answers has ended, INIT in HW mode draws a free value, and is whole
whatever it is. -/
def Obligations.InitDrawsAFreeAnswer : Prop :=
  ∀ s : State, s.cfg.mode = .hw → s.initOkIn = [] →
    ∃ t, exec .init s = .next t ∧ t.draws = s.draws + 1 ∧ t.inited = Config.freeInitOk s.draws ∧
      t.spiHeld = Config.freeInitOk s.draws ∧ t.fault = s.fault ∧ t.rot = s.rot ∧ t.fb = s.fb ∧ t.scs = false ∧
      t.vcom = (if Config.freeInitOk s.draws then s.cfg.vcomInit else s.vcom) ∧
      t.rsp = 0#2 ++ (if Config.freeInitOk s.draws then 1#32 else 0#32)

/-- SHUTDOWN (R232): SPI_HELD <- 0 in HW mode, no state change in SW mode; response 0; un-initialised it raises. -/
def Obligations.ShutdownReleasesThePeripheral : Prop :=
  ∀ s : State,
    (s.inited = true → s.cfg.mode = .hw → exec .shutdown s = .next (State.respond { s with spiHeld := false } 0#32)) ∧
    (s.inited = true → s.cfg.mode = .sw → exec .shutdown s = .next (s.respond 0#32)) ∧
    (s.inited = false → exec .shutdown s = .next (s.raise .notInitialized))

/-- RDSTAT (R233, R28): the STATUS word field by field, SPI_HELD reading 0 in SW mode (R26); nothing written, legal in every
state. -/
def Obligations.RdStatReportsStatus : Prop :=
  ∀ s : State, ∃ d, exec .rdStat s = .next (s.respond d) ∧
    d.getLsbD 0 = s.inited ∧
    d.getLsbD 1 = (decide (s.cfg.mode = .hw) && s.spiHeld) ∧
    d.getLsbD 2 = decide (s.cfg.mode = .hw) ∧
    d.getLsbD 3 = s.vcom ∧
    d.extractLsb' 4 2 = s.rot ∧
    d.extractLsb' 6 2 = s.fault ∧
    d.extractLsb' 8 24 = 0#24

/-- The five wire items (R99, R101, R102, R103): met in an open conversation, each is taken by the byte engine: its byte's 25
actions go to the head of PEND and the first, CLK(0), is performed (R160, R161). The model's choices: that the row is an
instruction and performs its first action at once (log 11), what the step records (log 16), and that the SI seen at that CLK(0) is
the last driven level, which R162 does not state for the first byte of a HW-mode transaction (log 8), and that a line address above
H, which R101 says is never sent, goes the same way (log 23). -/
def Obligations.WireItemsEnterTheByteEngine : Prop :=
  ∀ (s : State) (v : Bool) (a d : Byte), s.phase = .conversation → s.scs = true →
    (s.cfg.mode = .sw ∨ s.txnOpen = true) →
    let go : Byte → State := fun b =>
      { s with sclk := false, pend := ((xfer b).tail.map Item.act) ++ s.pend,
               trace := s.trace ++ [.pins ⟨true, false, s.si⟩] }
    exec (.wireCmdWrite v) s = .next (go (if v then 0x03#8 else 0x01#8)) ∧
    exec (.wireCmdClear v) s = .next (go (if v then 0x06#8 else 0x04#8)) ∧
    exec (.wireLineAddr a) s = .next (go a) ∧
    exec (.wireData d) s = .next (go d) ∧
    exec .wireZero s = .next (go 0x00#8)

/-- The model's stop (log 11): outside an open conversation, where the spec says no byte is ever transferred (R160, R162), a wire
item faults. -/
def Obligations.WireItemOutsideConversationFaults : Prop :=
  ∀ (i : Instr) (s : State), i.isHostCommand = false →
    (s.phase = .idle ∨ s.scs = false ∨ (s.cfg.mode = .hw ∧ s.txnOpen = false)) →
    exec i s = .fault .transferOutsideConversation

/-! ### Frames: what an instruction leaves unchanged -/

/-- GETDIM, GETPIXEL and RDSTAT write nothing but the response port (and FAULT, when they raise). -/
def Obligations.ReadCommandsFrame : Prop :=
  ∀ (i : Instr) (s t : State), (i = .getDim ∨ i = .rdStat ∨ ∃ x y, i = .getPixel x y) → exec i s = .next t →
    t = { s with fault := t.fault, rspValid := t.rspValid, rsp := t.rsp, trace := t.trace } ∧
    (s.inited = true ∨ i = .rdStat → t.fault = s.fault) ∧
    ∀ a, t.byteAt a = s.byteAt a

/-- INIT, SHUTDOWN and SETROT leave every byte of the buffer, and every register but the ones each names. -/
def Obligations.ControlCommandsFrame : Prop :=
  ∀ s t : State,
    (exec .init s = .next t →
      t = { s with scs := t.scs, sclk := t.sclk, vcom := t.vcom, inited := t.inited, spiHeld := t.spiHeld,
                   initOkIn := t.initOkIn, draws := t.draws, rspValid := t.rspValid, rsp := t.rsp, trace := t.trace } ∧
      ∀ a, t.byteAt a = s.byteAt a) ∧
    (exec .shutdown s = .next t →
      t = { s with spiHeld := t.spiHeld, fault := t.fault, rspValid := t.rspValid, rsp := t.rsp, trace := t.trace } ∧
      (s.inited = true → t.fault = s.fault) ∧ ∀ a, t.byteAt a = s.byteAt a) ∧
    (∀ r, exec (.setRot r) s = .next t →
      t = { s with rot := t.rot, fault := t.fault, rspValid := t.rspValid, rsp := t.rsp, trace := t.trace } ∧
      (s.inited = true → t.fault = s.fault) ∧ ∀ a, t.byteAt a = s.byteAt a)

/-- SETPIXEL stores to the one byte its operands name under the current rotation, if they are in range and it is
initialised, and to no other; CLEARBUF stores to bytes of the buffer only. Every register but FAULT (when they raise) and the
response port is unchanged. -/
def Obligations.StoringCommandsFrame : Prop :=
  (∀ (x y : CoordField) (v : Bool) (s t : State), exec (.setPixel x y v) s = .next t →
    t = { s with fb := t.fb, fault := t.fault, rspValid := t.rspValid, rsp := t.rsp, trace := t.trace } ∧
    (s.inited = true → t.fault = s.fault) ∧
    (s.inited = false ∨ pixelLoc s.cfg s.rot x y = none → ∀ b, t.byteAt b = s.byteAt b) ∧
    (∀ a k, pixelLoc s.cfg s.rot x y = some (a, k) → ∀ b, b ≠ a → t.byteAt b = s.byteAt b)) ∧
  (∀ s t : State, exec .clearBuf s = .next t →
    t = { s with fb := t.fb, fault := t.fault, rspValid := t.rspValid, rsp := t.rsp, trace := t.trace } ∧
    (s.inited = true → t.fault = s.fault) ∧
    (s.inited = false → ∀ b, t.byteAt b = s.byteAt b) ∧ ∀ b, s.cfg.fbSize ≤ b → t.memRead b = s.memRead b)

/-- Accepting REFRESH, CLEARDISP or VCOMTOG touches PHASE and PEND only, or, when it raises, FAULT and the response port only: no
pin moves, VCOM is not toggled and the buffer is not touched (R195). -/
def Obligations.ConversationCommandsFrame : Prop :=
  ∀ (i : Instr) (s t : State), i.opensConversation = true → exec i s = .next t →
    (t = { s with phase := .conversation, pend := t.pend } ∧ s.transportReady = true ∨
     t = { s with fault := t.fault, rspValid := true, rsp := t.rsp, trace := t.trace } ∧ s.transportReady = false) ∧
    ∀ a, t.byteAt a = s.byteAt a

/-- A wire item drives SCLK low and changes no other register: its other 24 actions go to the head of PEND and every
byte of the buffer is unchanged. That taking a wire row performs CLK(0) at once and leaves 24 actions is the model's choice
(log 11); so are the record `trace`, of which nothing is said here (log 16), and that a line address above H is taken too (log 23). -/
def Obligations.WireItemsFrame : Prop :=
  ∀ (i : Instr) (s t : State), i.isHostCommand = false → exec i s = .next t →
    t = { s with sclk := false, pend := t.pend, trace := t.trace } ∧
    (∃ acts : List Action, acts.length = 24 ∧ t.pend = acts.map Item.act ++ s.pend) ∧
    ∀ a, t.byteAt a = s.byteAt a

/-! ### The sequencer (10_state.md) -/

/-- A step runs the decoded instruction: a presented host word with PHASE = IDLE, or the byte at the head of PEND with PHASE =
OPEN. What the step does around `exec` is the model's choice: it takes the word (log 6) or the byte (logs 10, 11) away, takes this
step's RST level off its stream (log 6), counts `now` (log 8) and lets rsp_valid fall (log 9). -/
def Obligations.StepRunsTheDecodedInstruction : Prop :=
  (∀ (s : State) (w : HostWord) (rest : List HostWord) (i : Instr), s.rstLevel = false → s.phase = .idle →
    s.cmds = w :: rest → decode (.host w) = .ok i →
    step s = exec i { s with cmds := rest, now := s.now + 1, rspValid := false, rstIn := s.rstIn.tail }) ∧
  (∀ (s : State) (k : WireKind) (b : Byte) (rest : List Item) (i : Instr), s.rstLevel = false →
    s.phase = .conversation → s.pend = .byte k b :: rest → decode (.wire k b) = .ok i →
    step s = exec i { s with pend := rest, now := s.now + 1, rspValid := false, rstIn := s.rstIn.tail })

/-- The sequencer step of R40: the head action is performed, and when PEND becomes empty PHASE <- IDLE and the response is produced.
TXN_BEGIN and TXN_END occur in HW mode only (R33). That rsp_valid is 0 after every action but the last is the model's choice (log 9),
not R40's, so the statement is derived. -/
def Obligations.StepPerformsTheHeadAction : Prop :=
  ∀ (s : State) (a : Action) (rest : List Item), s.rstLevel = false → s.phase = .conversation →
    s.pend = .act a :: rest → (a = .txnBegin ∨ a = .txnEnd → s.cfg.mode = .hw) →
    ∃ t, step s = .next t ∧
      t.pend = rest ∧
      t.scs = (match a with | .cs v => v | _ => s.scs) ∧
      t.sclk = (match a with | .clk v => v | _ => s.sclk) ∧
      t.si = (match a with | .dat v => v | _ => s.si) ∧
      t.txnOpen = (match a with | .txnBegin => true | .txnEnd => false | _ => s.txnOpen) ∧
      t.vcom = (match a with | .toggleVcom => !s.vcom | _ => s.vcom) ∧
      (a = .fbClear → ∀ b, b < s.cfg.fbSize → t.byteAt b = 0xFF#8) ∧
      (a ≠ .fbClear → t.fb = s.fb) ∧
      t.phase = (if rest = [] then .idle else .conversation) ∧
      t.rspValid = rest.isEmpty ∧
      (rest = [] → t.rsp = 0#2 ++ 0#32) ∧
      t.rot = s.rot ∧ t.inited = s.inited ∧ t.spiHeld = s.spiHeld ∧ t.fault = s.fault ∧ t.cmds = s.cmds

/-- Hold (R41): while PHASE = OPEN cmd_ready is 0 and no step accepts a command, whatever the host presents. -/
def Obligations.CommandsAreHeldWhileOpen : Prop :=
  ∀ s t : State, s.phase = .conversation → step s = .next t →
    s.cmdReady = false ∧ t.cmds = s.cmds ∧
    (s.rstLevel = false → t.rot = s.rot ∧ t.inited = s.inited ∧ t.spiHeld = s.spiHeld ∧ t.fault = s.fault)

/-- Responses (R35): a step that accepts a command produces exactly one response, at once, unless it opens a conversation; a step
inside a conversation produces one exactly when it performs the last action; so responses come one per command and in order. A
step under reset, or with nothing presented, produces none. -/
def Obligations.OneResponsePerCommand : Prop :=
  ∀ s t : State, step s = .next t →
    (s.rstLevel = true → t.responses = s.responses) ∧
    (s.rstLevel = false → s.phase = .idle → s.cmds = [] → t.responses = s.responses ∧ t.phase = .idle) ∧
    (∀ w rest, s.rstLevel = false → s.phase = .idle → s.cmds = w :: rest →
      t.cmds = rest ∧
      ((t.phase = .idle ∧ t.responses = s.responses ++ [t.rsp] ∧ t.rspValid = true) ∨
       (t.phase = .conversation ∧ t.responses = s.responses))) ∧
    (s.rstLevel = false → s.phase = .conversation →
      (t.phase = .idle ∧ t.pend = [] ∧ t.responses = s.responses ++ [t.rsp] ∧ t.rspValid = true) ∨
      (t.phase = .conversation ∧ t.pend ≠ [] ∧ t.responses = s.responses))

/-- The byte engine in both modes (R161, R162): from a byte at the head of PEND, 25 steps drive SCLK low, SI to bit j and SCLK high
for j = 0 to 7, and leave SCLK low and SI at bit 7; nothing else happens in between. In HW mode a byte is sent inside a
transaction only. The model's choices: the streams and the step count (logs 6, 8), rsp_valid falling (log 9), and that SI before
the first bit is the last driven level, which R162 does not state for the first byte of a HW-mode transaction (log 8), and that a
line address above H, which R101 says is never sent, is clocked out too (log 23). -/
def Obligations.ByteIsClockedOutLsbFirst : Prop :=
  ∀ (s : State) (k : WireKind) (b : Byte) (rest : List Item) (i : Instr),
    s.phase = .conversation → s.scs = true → s.sclk = false → (s.cfg.mode = .sw ∨ s.txnOpen = true) →
    s.pend = .byte k b :: rest → rest ≠ [] → decode (.wire k b) = .ok i → s.rstLowFor 25 = true →
    let bit : Nat → List Obs := fun j =>
      [.pins ⟨true, false, if j = 0 then s.si else b.getLsbD (j - 1)⟩,
       .pins ⟨true, false, b.getLsbD j⟩, .pins ⟨true, true, b.getLsbD j⟩]
    core.run 25 s = .next { s with
      pend := rest, sclk := false, si := b.getLsbD 7, rspValid := false, now := s.now + 25,
      rstIn := s.rstIn.drop 25,
      trace := s.trace ++ ((List.range 8).flatMap bit ++ [.pins ⟨true, false, b.getLsbD 7⟩]) }

/-! ### Reset (70_reset_and_hazards.md) -/

/-- The reset table (R43). In HW mode SCLK and SI are unspecified and nothing is said of them; `rsp` before the first response
is not in the table. -/
def Obligations.ResetTable : Prop :=
  ∀ c : Config, c.wf = true →
    let s := State.resetOf c
    (∀ a, a < c.fbSize → c.fbReset[a]? = some (s.byteAt a)) ∧
    s.rot = 0#2 ∧ s.vcom = c.vcomInit ∧ s.cfg = c ∧ s.inited = false ∧ s.spiHeld = false ∧ s.fault = 0#2 ∧
    s.phase = .idle ∧ s.pend = [] ∧ s.scs = false ∧ (c.mode = .sw → s.sclk = false ∧ s.si = false) ∧
    s.txnOpen = false ∧ s.cmdReady = true ∧ s.rspValid = false ∧
    ∀ i : Instr, i.needsInit = true → exec i s = .next (s.raise .notInitialized)

/-- RST overrides everything (R280, R36): from any state, in the middle of a conversation too, the step under RST puts every state
element at its reset value at once, accepts nothing and gives no response; SCS is seen low, and in SW mode all three pins. In HW
mode nothing is said of SCLK and SI, and of `rsp` nothing in either. That the step adds exactly one pin observation (log 15) to a
history that is kept (log 16) is the model's choice, no rule's, so the statement is derived. -/
def Obligations.ResetFromAnyState : Prop :=
  ∀ s : State, s.rstLevel = true →
    ∃ t, step s = .next t ∧
      (∀ a, t.byteAt a = s.cfg.resetByte a) ∧ t.cfg = s.cfg ∧
      t.rot = 0#2 ∧ t.vcom = s.cfg.vcomInit ∧ t.inited = false ∧ t.spiHeld = false ∧ t.fault = 0#2 ∧
      t.phase = .idle ∧ t.pend = [] ∧ t.scs = false ∧ t.txnOpen = false ∧
      (s.cfg.mode = .sw → t.sclk = false ∧ t.si = false) ∧
      t.cmdReady = true ∧ t.rspValid = false ∧ t.cmds = s.cmds ∧ t.responses = s.responses ∧
      ∃ p : Pins, t.trace = s.trace ++ [.pins p] ∧ p.scs = false ∧ (s.cfg.mode = .sw → p = ⟨false, false, false⟩)

/-! ### Invariants and whole-machine rules -/

/-- Every well-formed configuration has an instance, no other has, and its reset state meets the invariant (10_state.md
section 4, "Invariants a model may rely on"). Well-formed is R6's list, and positive F_SCLK_HZ, T_PULSE_MIN and T_VCOM_MAX by
R5 (log 5, an inference of the model). The clause on `State.reset` is about the instance the model chose (logs 2, 3, 4, 5). -/
def Obligations.InvariantHoldsAtReset : Prop :=
  (∀ c : Config, c.wf = true → State.build c = some (State.resetOf c) ∧ (State.resetOf c).inv = true) ∧
  (∀ c : Config, c.wf = false → State.build c = none) ∧ State.reset.inv = true

/-- Every step keeps the invariant ((a), (c), (d) of 10_state.md section 4, "Invariants a model may rely on", which the spec
marks as derived; the frame buffer's canonical form; the bracket of chip-select around every byte). -/
def Obligations.EveryStepKeepsTheInvariant : Prop :=
  ∀ s t : State, s.inv = true → step s = .next t → t.inv = true

/-- The controller never stops (R9, R251): a state that meets the invariant always has a next state, whatever the host
presents. -/
def Obligations.ControllerNeverStops : Prop :=
  ∀ s : State, s.inv = true → ∃ t, step s = .next t

/-- ROT (R22): a step changes it only by SETROT, which sets it to its operand, and by reset, which sets it to 0. -/
def Obligations.RotIsWrittenOnlyBySetRot : Prop :=
  ∀ s t : State, step s = .next t →
    (s.rstLevel = true → t.rot = 0#2) ∧
    (s.rstLevel = false → t.rot ≠ s.rot →
      s.phase = .idle ∧ ∃ w rest, s.cmds = w :: rest ∧ decode (.host w) = .ok (.setRot t.rot))

/-- VCOM (R23): a step changes it only by a TOGGLE_VCOM action, which inverts it, by INIT, which loads VCOM_INIT, and by reset,
which sets it to VCOM_INIT. -/
def Obligations.VcomIsWrittenOnlyByToggleAndInit : Prop :=
  ∀ s t : State, step s = .next t →
    (s.rstLevel = true → t.vcom = s.cfg.vcomInit) ∧
    (s.rstLevel = false → t.vcom ≠ s.vcom →
      (s.phase = .idle ∧ t.vcom = s.cfg.vcomInit ∧ ∃ w rest, s.cmds = w :: rest ∧ decode (.host w) = .ok .init) ∨
      (s.phase = .conversation ∧ t.vcom = !s.vcom ∧ ∃ rest, s.pend = .act .toggleVcom :: rest))

/-- INITED (R25) is written only by INIT and reset; SPI_HELD (R26) only by INIT, SHUTDOWN and reset, and reads 0 in SW mode; both
are 0 after reset. -/
def Obligations.SessionBitsAreWrittenOnlyBySystemCommands : Prop :=
  ∀ s t : State, step s = .next t →
    (s.rstLevel = true → t.inited = false ∧ t.spiHeld = false) ∧
    (s.rstLevel = false → t.inited ≠ s.inited →
      s.phase = .idle ∧ ∃ w rest, s.cmds = w :: rest ∧ decode (.host w) = .ok .init) ∧
    (s.rstLevel = false → t.spiHeld ≠ s.spiHeld →
      s.phase = .idle ∧ s.cfg.mode = .hw ∧ ∃ w rest, s.cmds = w :: rest ∧
        (decode (.host w) = .ok .init ∨ decode (.host w) = .ok .shutdown)) ∧
    (s.cfg.mode = .sw → t.spiHeldBit = false)

/-- FAULT is sticky (R27): it is written only by a raise, only while it is 0, to the code the response then carries, and cleared
only by reset. -/
def Obligations.FaultIsSticky : Prop :=
  ∀ s t : State, step s = .next t →
    (s.rstLevel = true → t.fault = 0#2) ∧
    (s.rstLevel = false → s.fault ≠ 0#2 → t.fault = s.fault) ∧
    (s.rstLevel = false → t.fault ≠ s.fault →
      s.fault = 0#2 ∧ t.rspValid = true ∧ t.rsp = t.fault ++ 0#32)

/-- A byte of the buffer is written only by SETPIXEL, by CLEARBUF, by the FB_CLEAR action of CLEARDISP, and by reset (R21, R69);
and no step changes the configuration (R5, R24). -/
def Obligations.BufferIsWrittenOnlyByItsCommands : Prop :=
  ∀ s t : State, step s = .next t →
    t.cfg = s.cfg ∧
    (t.fb ≠ s.fb →
      s.rstLevel = true ∨
      (s.phase = .idle ∧ ∃ w rest, s.cmds = w :: rest ∧
        (decode (.host w) = .ok .clearBuf ∨ ∃ x y v, decode (.host w) = .ok (.setPixel x y v))) ∨
      (s.phase = .conversation ∧ ∃ rest, s.pend = .act .fbClear :: rest))

/-! ### Conversations (42_conversations.md) -/

/-- The loop of R193, the normative form, is the closed form that the spec derives from it (section 2, "Closed form of the refresh
stream"), on every well-formed instance. -/
def Obligations.RefreshLoopIsItsClosedForm : Prop :=
  ∀ s : State, s.cfg.wf = true → refreshBody s = refreshClosed s

/-- Sizes, as the spec derives them (42_conversations.md section 3, "Sizes"): bytes on the wire, and actions in PEND at acceptance. -/
def Obligations.ConversationSizes : Prop :=
  ∀ s : State, s.cfg.wf = true →
    let extra := if s.cfg.mode = .hw then 2 else 0
    let n := 2 + s.cfg.height * (s.cfg.rowBytes + 2)
    (wireBytes (conversationList .refresh s)).length = n ∧
    (wireBytes (conversationList .clearDisp s)).length = 2 ∧
    (wireBytes (conversationList .vcomTog s)).length = 2 ∧
    (pendActions (conversationList .refresh s)).length = 2 + 25 * n + 1 + 2 + extra ∧
    (pendActions (conversationList .clearDisp s)).length = 56 + extra ∧
    (pendActions (conversationList .vcomTog s)).length = 55 + extra

/-- Every conversation's list asserts chip-select once and de-asserts it once, toggles VCOM once, and in HW mode opens and closes
one transaction (R168, R198, R164, R165); only CLEARDISP clears the buffer. -/
def Obligations.OneSelectAndOneTogglePerConversation : Prop :=
  ∀ (i : Instr) (s : State), i.opensConversation = true →
    let l := pendActions (conversationList i s)
    let txns := if s.cfg.mode = .hw then 1 else 0
    l.count (.cs true) = 1 ∧ l.count (.cs false) = 1 ∧ l.count .toggleVcom = 1 ∧
    l.count .txnBegin = txns ∧ l.count .txnEnd = txns ∧ l.count (.delay s.cfg.tSettleUs) = 2 ∧
    l.count .fbClear = (if i = .clearDisp then 1 else 0)

/-- The shape of a refresh does not depend on the buffer's content or on the rotation: which positions hold which kind of entry
is the same for any two buffers (R200), and ROT changes nothing at all (R76). -/
def Obligations.RefreshShapeIgnoresDataAndRotation : Prop :=
  ∀ (s : State) (fb' : List Host.Cell) (r : RotState),
    let kind : Item → Option WireKind := fun x => match x with | .act _ => none | .byte k _ => some k
    (refreshBody { s with fb := fb' }).map kind = (refreshBody s).map kind ∧
    refreshBody { s with rot := r } = refreshBody s

/-- The two modes load the same list but for the transaction marks around the bracket, as the spec derives
(41_serial_transport.md section 2, "Mode equivalence"). -/
def Obligations.ModesDifferOnlyInTransactionMarks : Prop :=
  ∀ (i : Instr) (s : State), i.opensConversation = true →
    let sw : State := { s with cfg := { s.cfg with mode := .sw } }
    let hw : State := { s with cfg := { s.cfg with mode := .hw } }
    let pre : List Item := if i = .clearDisp then [.act .fbClear] else []
    ∃ bracket : List Item,
      conversationList i sw = pre ++ bracket ∧
      conversationList i hw = pre ++ [.act .txnBegin] ++ bracket ++ [.act .txnEnd]

/-- A conversation runs to its end (R190, R41, R198): accepted in a state that meets the invariant, with RST low, it is over after
exactly one step for the acceptance and one for each action of its list (log 10); then PHASE is IDLE, one response with err 0 and
data 0 has been given, VCOM is inverted, SCS and TXN_OPEN are 0 and the driven level of SCLK is 0, which is the pin's in SW mode (in
HW mode nothing is said of the pin outside a transaction, log 8), the buffer is cleared by CLEARDISP and unchanged by the others,
and no other register and no waiting command has changed. -/
def Obligations.ConversationRunsToItsEnd : Prop :=
  ∀ (s : State) (w : HostWord) (rest : List HostWord) (i : Instr),
    s.inv = true → s.phase = .idle → s.cmds = w :: rest → decode (.host w) = .ok i → i.opensConversation = true →
    s.transportReady = true →
    let n := (pendActions (conversationList i s)).length
    s.rstLowFor (n + 1) = true →
    ∃ t, core.run (n + 1) s = .next t ∧
      t.phase = .idle ∧ t.pend = [] ∧ t.cmds = rest ∧ t.responses = s.responses ++ [0#2 ++ 0#32] ∧
      t.vcom = !s.vcom ∧ t.scs = false ∧ t.sclk = false ∧ t.txnOpen = false ∧
      (i = .clearDisp → ∀ a, a < s.cfg.fbSize → t.byteAt a = 0xFF#8) ∧ (i ≠ .clearDisp → t.fb = s.fb) ∧
      t.rot = s.rot ∧ t.inited = s.inited ∧ t.spiHeld = s.spiHeld ∧ t.fault = s.fault ∧ t.cfg = s.cfg

/-- The wire view (the grammar of R104; the listener of 41_serial_transport.md section 2, "Wire view", whose sampling edge the spec
derives): a listener who saw chip-select low before the conversation hears, in exactly one exchange, the bytes of the grammar, in
both modes. The step count is that of log 10. -/
def Obligations.ListenerHearsTheGrammar : Prop :=
  ∀ (s : State) (w : HostWord) (rest : List HostWord) (i : Instr),
    s.inv = true → s.phase = .idle → s.cmds = w :: rest → decode (.host w) = .ok i → i.opensConversation = true →
    s.transportReady = true →
    let n := (pendActions (conversationList i s)).length
    s.rstLowFor (n + 1) = true →
    ∃ t seen, core.run (n + 1) s = .next t ∧ t.trace = s.trace ++ seen ∧
      ∀ l : Listener, l.last.scs = false →
        (l.hearAll seen).last.scs = false ∧
        (l.hearAll seen).heard.map bytesOfBits = l.heard.map bytesOfBits ++ [grammarBytes i s]

/-! ### Observation (00_scope.md section 5) -/

/-- What a step of an open conversation lets an observer see (00_scope.md section 5, "Observation"): the pin triple after each action
that can move a pin, TXN_BEGIN and TXN_END among them, a mark for a delay, TXN_BEGIN and TXN_END, nothing for the internal actions,
and after the last action the response. The triple is the three driven levels in SW mode and inside a transaction; in HW mode
outside one, SCLK and SI are free values (log 8). The history itself is the model's own (log 16). -/
def Obligations.StepRecordsWhatIsSeen : Prop :=
  ∀ (s : State) (a : Action) (rest : List Item), s.rstLevel = false → s.phase = .conversation →
    s.pend = .act a :: rest → (a = .txnBegin ∨ a = .txnEnd → s.cfg.mode = .hw) →
    ∃ t, step s = .next t ∧
      t.trace = s.trace ++
        (match a with
         | .cs _ => [Obs.pins t.pins]
         | .clk _ => [.pins t.pins]
         | .dat _ => [.pins t.pins]
         | .delay d => [.delay d]
         | .txnBegin => [.txnBegin, .pins t.pins]
         | .txnEnd => [.txnEnd, .pins t.pins]
         | .toggleVcom => []
         | .fbClear => []) ++
        (if rest = [] then [.response (0#2 ++ 0#32)] else []) ∧
      t.pins.scs = t.scs ∧ (s.cfg.mode = .sw ∨ t.txnOpen = true → t.pins = ⟨t.scs, t.sclk, t.si⟩) ∧
      (s.cfg.mode = .hw → t.txnOpen = false → t.pins = ⟨t.scs, Config.freeSclk t.now, Config.freeSi t.now⟩)

end
end

