-- ==== Sys2Proof/Laws/Memory.lean ====
section
/-! SUPPORT. The laws of the frame buffer's memory: read after write, other addresses untouched, and that every operation
keeps the canonical form. -/

namespace Sys2Proof.Machine

theorem Memory.lookup_insert (m : List Host.Cell) (a b : Nat) (v : Byte) :
    Memory.lookup (Memory.insert m a v) b = if a = b then some v else Memory.lookup m b := by
  induction m with
  | nil => simp [Memory.insert, Memory.lookup]
  | cons c m ih =>
    obtain ⟨k, w⟩ := c
    simp only [Memory.insert]
    split
    · simp [Memory.lookup]
    · split
      · subst_vars
        by_cases h : k = b <;> simp [Memory.lookup, h]
      · simp only [Memory.lookup, ih]
        split <;> split <;> simp_all

theorem Memory.lookup_remove (m : List Host.Cell) (a b : Nat) :
    Memory.lookup (Memory.remove m a) b = if a = b then none else Memory.lookup m b := by
  induction m with
  | nil => simp [Memory.remove, Memory.lookup]
  | cons c m ih =>
    obtain ⟨k, w⟩ := c
    unfold Memory.remove at ih ⊢
    by_cases h : k = a
    · subst h
      simp only [List.filter_cons, bne_self_eq_false, Bool.false_eq_true, if_false, ih, Memory.lookup]
      split <;> rfl
    · rw [List.filter_cons_of_pos (by simpa using h)]
      simp only [Memory.lookup, ih]
      split <;> split <;> simp_all

/-- A byte written is read back; every other address reads as before. -/
theorem Memory.read_write (d : Nat → Byte) (m : List Host.Cell) (a b : Nat) (v : Byte) :
    Memory.read d (Memory.write d m a v) b = if a = b then v else Memory.read d m b := by
  unfold Memory.read Memory.write
  split
  · rw [Memory.lookup_remove]; split <;> simp_all
  · rw [Memory.lookup_insert]; split <;> simp_all

theorem Memory.lookup_filterMap_range (d : Nat → Byte) (v : Byte) (b : Nat) :
    ∀ l : List Nat, Memory.lookup (l.filterMap (fun a => if v = d a then none else some (a, v))) b
      = if b ∈ l ∧ v ≠ d b then some v else none := by
  intro l
  induction l with
  | nil => simp [Memory.lookup]
  | cons a l ih =>
    by_cases h : v = d a
    · rw [List.filterMap_cons_none (by simp [h]), ih]
      by_cases hb : b = a <;> simp_all
    · rw [List.filterMap_cons_some (b := (a, v)) (by simp [h])]
      simp only [Memory.lookup, ih, List.mem_cons]
      by_cases hb : a = b
      · simp_all
      · simp [hb, Ne.symm hb]

/-- Every address of a filled memory reads as the filler. -/
theorem Memory.read_filled (d : Nat → Byte) (n a : Nat) (v : Byte) :
    Memory.read d (Memory.filled d n v) a = if a < n then v else d a := by
  unfold Memory.read Memory.filled
  rw [Memory.lookup_filterMap_range]
  by_cases h : a < n <;> by_cases hv : v = d a <;> simp [h, hv]

/-! ### The canonical form -/

theorem Memory.mem_insert {m : List Host.Cell} {a : Nat} {v : Byte} {c : Host.Cell}
    (h : c ∈ Memory.insert m a v) : c = (a, v) ∨ c ∈ m := by
  induction m with
  | nil => simpa [Memory.insert] using h
  | cons k m ih =>
    obtain ⟨k, w⟩ := k
    simp only [Memory.insert] at h
    split at h
    · simpa using h
    · split at h
      · rcases List.mem_cons.1 h with rfl | h
        · exact .inl rfl
        · exact .inr (List.mem_cons_of_mem _ h)
      · rcases List.mem_cons.1 h with rfl | h
        · exact .inr (List.mem_cons_self ..)
        · exact (ih h).imp_right (List.mem_cons_of_mem _)

theorem Memory.rising_insert (m : List Host.Cell) (a : Nat) (v : Byte) (h : Memory.rising m = true) :
    Memory.rising (Memory.insert m a v) = true := by
  induction m with
  | nil => rfl
  | cons k m ih =>
    obtain ⟨k, w⟩ := k
    simp only [Memory.rising, Bool.and_eq_true, List.all_eq_true, decide_eq_true_eq] at h
    simp only [Memory.insert]
    split
    · rename_i hak
      simp only [Memory.rising, Bool.and_eq_true, List.all_eq_true, decide_eq_true_eq, List.mem_cons]
      refine ⟨?_, h⟩
      rintro c (rfl | hc)
      · exact hak
      · exact hak.trans (h.1 c hc)
    · split
      · subst_vars
        simpa [Memory.rising] using h
      · rename_i h1 h2
        simp only [Memory.rising, Bool.and_eq_true, List.all_eq_true, decide_eq_true_eq]
        refine ⟨fun c hc => ?_, ih h.2⟩
        rcases Memory.mem_insert hc with rfl | hc
        · omega
        · exact h.1 c hc

theorem Memory.rising_filter (p : Host.Cell → Bool) (m : List Host.Cell) (h : Memory.rising m = true) :
    Memory.rising (m.filter p) = true := by
  induction m with
  | nil => rfl
  | cons k m ih =>
    simp only [Memory.rising, Bool.and_eq_true, List.all_eq_true, decide_eq_true_eq] at h
    rw [List.filter_cons]
    split
    · simp only [Memory.rising, Bool.and_eq_true, List.all_eq_true, decide_eq_true_eq]
      exact ⟨fun c hc => h.1 c (List.mem_filter.1 hc).1, ih h.2⟩
    · exact ih h.2

/-- The canonical form, read as a proposition. -/
theorem Memory.wf_iff (d : Nat → Byte) (n : Nat) (m : List Host.Cell) :
    Memory.wf d n m = true ↔ Memory.rising m = true ∧ ∀ c ∈ m, c.1 < n ∧ c.2 ≠ d c.1 := by
  simp [Memory.wf, List.all_eq_true]

/-- A write keeps the canonical form. -/
theorem Memory.wf_write (d : Nat → Byte) (n : Nat) (m : List Host.Cell) (a : Nat) (v : Byte)
    (h : Memory.wf d n m = true) (ha : a < n) : Memory.wf d n (Memory.write d m a v) = true := by
  rw [Memory.wf_iff] at h ⊢
  unfold Memory.write
  split
  · exact ⟨Memory.rising_filter _ _ h.1, fun c hc => h.2 c (List.mem_filter.1 hc).1⟩
  · refine ⟨Memory.rising_insert _ _ _ h.1, fun c hc => ?_⟩
    rcases Memory.mem_insert hc with rfl | hc
    · exact ⟨ha, by assumption⟩
    · exact h.2 c hc

theorem Memory.rising_of_pairwise (m : List Host.Cell) (h : m.Pairwise (fun a b => a.1 < b.1)) :
    Memory.rising m = true := by
  induction h with
  | nil => rfl
  | cons h _ ih =>
    simp only [Memory.rising, Bool.and_eq_true, List.all_eq_true, decide_eq_true_eq]
    exact ⟨h, ih⟩

/-- Filling the memory gives the canonical form. -/
theorem Memory.wf_filled (d : Nat → Byte) (n : Nat) (v : Byte) : Memory.wf d n (Memory.filled d n v) = true := by
  rw [Memory.wf_iff]
  unfold Memory.filled
  refine ⟨Memory.rising_of_pairwise _ ?_, ?_⟩
  · rw [List.pairwise_filterMap]
    refine List.pairwise_lt_range.imp ?_
    intro a b hab c hc e he
    by_cases h1 : v = d a <;> by_cases h2 : v = d b <;> simp_all
    obtain ⟨rfl⟩ := hc
    obtain ⟨rfl⟩ := he
    exact hab
  · intro c hc
    obtain ⟨a, ha, hc⟩ := List.mem_filterMap.1 hc
    split at hc
    · cases hc
    · cases hc
      exact ⟨List.mem_range.1 ha, by assumption⟩

/-- Reset memory has the canonical form. -/
theorem Memory.wf_nil (d : Nat → Byte) (n : Nat) : Memory.wf d n [] = true := rfl

/-! ### The same through the state -/

/-- `MemWrite` then `FB[b]` (R12). -/
theorem State.byteAt_memWrite {s t : State} {a : Nat} {v : Byte} (h : s.memWrite a v = .ok t) (b : Nat) :
    t.byteAt b = if a = b then v else s.byteAt b := by
  unfold State.memWrite at h
  split at h
  · cases h
    exact Memory.read_write ..
  · cases h

/-- Everything a byte write can do: the address exists and only `fb` is written. -/
theorem State.memWrite_ok {s t : State} {a : Nat} {v : Byte} (h : s.memWrite a v = .ok t) :
    a < s.cfg.fbSize ∧ t = { s with fb := Memory.write s.cfg.resetByte s.fb a v } := by
  unfold State.memWrite at h
  split at h
  · cases h
    exact ⟨by assumption, rfl⟩
  · cases h

/-- Everything a byte read can do. -/
theorem State.memRead_ok {s : State} {a : Nat} {b : Byte} (h : s.memRead a = .ok b) :
    a < s.cfg.fbSize ∧ b = s.byteAt a := by
  unfold State.memRead at h
  split at h
  · cases h
    exact ⟨by assumption, rfl⟩
  · cases h

/-- After the buffer is cleared every byte reads 0xFF (R140). -/
theorem State.byteAt_clearBuffer (s : State) (a : Nat) (ha : a < s.cfg.fbSize) : s.clearBuffer.byteAt a = 0xFF#8 := by
  change Memory.read s.cfg.resetByte (Memory.filled s.cfg.resetByte s.cfg.fbSize 0xFF#8) a = _
  rw [Memory.read_filled, if_pos ha]

end Sys2Proof.Machine
end

