-- ==== Sys2Proof/Laws/State.lean ====
section
/-! SUPPORT. One lemma per field per named update of the state: what an update leaves, and what it writes. -/

namespace Sys2Proof.Machine

variable (s : State)

/-! ### `observe` -/

@[simp] theorem State.observe_cfg (o : Obs) : (s.observe o).cfg = s.cfg := rfl
@[simp] theorem State.observe_fb (o : Obs) : (s.observe o).fb = s.fb := rfl
@[simp] theorem State.observe_rot (o : Obs) : (s.observe o).rot = s.rot := rfl
@[simp] theorem State.observe_vcom (o : Obs) : (s.observe o).vcom = s.vcom := rfl
@[simp] theorem State.observe_inited (o : Obs) : (s.observe o).inited = s.inited := rfl
@[simp] theorem State.observe_spiHeld (o : Obs) : (s.observe o).spiHeld = s.spiHeld := rfl
@[simp] theorem State.observe_fault (o : Obs) : (s.observe o).fault = s.fault := rfl
@[simp] theorem State.observe_scs (o : Obs) : (s.observe o).scs = s.scs := rfl
@[simp] theorem State.observe_sclk (o : Obs) : (s.observe o).sclk = s.sclk := rfl
@[simp] theorem State.observe_si (o : Obs) : (s.observe o).si = s.si := rfl
@[simp] theorem State.observe_txnOpen (o : Obs) : (s.observe o).txnOpen = s.txnOpen := rfl
@[simp] theorem State.observe_phase (o : Obs) : (s.observe o).phase = s.phase := rfl
@[simp] theorem State.observe_pend (o : Obs) : (s.observe o).pend = s.pend := rfl
@[simp] theorem State.observe_rspValid (o : Obs) : (s.observe o).rspValid = s.rspValid := rfl
@[simp] theorem State.observe_rsp (o : Obs) : (s.observe o).rsp = s.rsp := rfl
@[simp] theorem State.observe_cmds (o : Obs) : (s.observe o).cmds = s.cmds := rfl
@[simp] theorem State.observe_rstIn (o : Obs) : (s.observe o).rstIn = s.rstIn := rfl
@[simp] theorem State.observe_initOkIn (o : Obs) : (s.observe o).initOkIn = s.initOkIn := rfl
@[simp] theorem State.observe_draws (o : Obs) : (s.observe o).draws = s.draws := rfl
@[simp] theorem State.observe_now (o : Obs) : (s.observe o).now = s.now := rfl
@[simp] theorem State.observe_trace (o : Obs) : (s.observe o).trace = s.trace ++ [o] := rfl

/-! ### `observePins` -/

@[simp] theorem State.observePins_cfg : (s.observePins).cfg = s.cfg := rfl
@[simp] theorem State.observePins_fb : (s.observePins).fb = s.fb := rfl
@[simp] theorem State.observePins_rot : (s.observePins).rot = s.rot := rfl
@[simp] theorem State.observePins_vcom : (s.observePins).vcom = s.vcom := rfl
@[simp] theorem State.observePins_inited : (s.observePins).inited = s.inited := rfl
@[simp] theorem State.observePins_spiHeld : (s.observePins).spiHeld = s.spiHeld := rfl
@[simp] theorem State.observePins_fault : (s.observePins).fault = s.fault := rfl
@[simp] theorem State.observePins_scs : (s.observePins).scs = s.scs := rfl
@[simp] theorem State.observePins_sclk : (s.observePins).sclk = s.sclk := rfl
@[simp] theorem State.observePins_si : (s.observePins).si = s.si := rfl
@[simp] theorem State.observePins_txnOpen : (s.observePins).txnOpen = s.txnOpen := rfl
@[simp] theorem State.observePins_phase : (s.observePins).phase = s.phase := rfl
@[simp] theorem State.observePins_pend : (s.observePins).pend = s.pend := rfl
@[simp] theorem State.observePins_rspValid : (s.observePins).rspValid = s.rspValid := rfl
@[simp] theorem State.observePins_rsp : (s.observePins).rsp = s.rsp := rfl
@[simp] theorem State.observePins_cmds : (s.observePins).cmds = s.cmds := rfl
@[simp] theorem State.observePins_rstIn : (s.observePins).rstIn = s.rstIn := rfl
@[simp] theorem State.observePins_initOkIn : (s.observePins).initOkIn = s.initOkIn := rfl
@[simp] theorem State.observePins_draws : (s.observePins).draws = s.draws := rfl
@[simp] theorem State.observePins_now : (s.observePins).now = s.now := rfl
@[simp] theorem State.observePins_trace : (s.observePins).trace = s.trace ++ [.pins s.pins] := rfl

/-! ### `emitResponse` -/

@[simp] theorem State.emitResponse_cfg (r : RspWord) : (s.emitResponse r).cfg = s.cfg := rfl
@[simp] theorem State.emitResponse_fb (r : RspWord) : (s.emitResponse r).fb = s.fb := rfl
@[simp] theorem State.emitResponse_rot (r : RspWord) : (s.emitResponse r).rot = s.rot := rfl
@[simp] theorem State.emitResponse_vcom (r : RspWord) : (s.emitResponse r).vcom = s.vcom := rfl
@[simp] theorem State.emitResponse_inited (r : RspWord) : (s.emitResponse r).inited = s.inited := rfl
@[simp] theorem State.emitResponse_spiHeld (r : RspWord) : (s.emitResponse r).spiHeld = s.spiHeld := rfl
@[simp] theorem State.emitResponse_fault (r : RspWord) : (s.emitResponse r).fault = s.fault := rfl
@[simp] theorem State.emitResponse_scs (r : RspWord) : (s.emitResponse r).scs = s.scs := rfl
@[simp] theorem State.emitResponse_sclk (r : RspWord) : (s.emitResponse r).sclk = s.sclk := rfl
@[simp] theorem State.emitResponse_si (r : RspWord) : (s.emitResponse r).si = s.si := rfl
@[simp] theorem State.emitResponse_txnOpen (r : RspWord) : (s.emitResponse r).txnOpen = s.txnOpen := rfl
@[simp] theorem State.emitResponse_phase (r : RspWord) : (s.emitResponse r).phase = s.phase := rfl
@[simp] theorem State.emitResponse_pend (r : RspWord) : (s.emitResponse r).pend = s.pend := rfl
@[simp] theorem State.emitResponse_rspValid (r : RspWord) : (s.emitResponse r).rspValid = true := rfl
@[simp] theorem State.emitResponse_rsp (r : RspWord) : (s.emitResponse r).rsp = r := rfl
@[simp] theorem State.emitResponse_cmds (r : RspWord) : (s.emitResponse r).cmds = s.cmds := rfl
@[simp] theorem State.emitResponse_rstIn (r : RspWord) : (s.emitResponse r).rstIn = s.rstIn := rfl
@[simp] theorem State.emitResponse_initOkIn (r : RspWord) : (s.emitResponse r).initOkIn = s.initOkIn := rfl
@[simp] theorem State.emitResponse_draws (r : RspWord) : (s.emitResponse r).draws = s.draws := rfl
@[simp] theorem State.emitResponse_now (r : RspWord) : (s.emitResponse r).now = s.now := rfl
@[simp] theorem State.emitResponse_trace (r : RspWord) : (s.emitResponse r).trace = s.trace ++ [.response r] := rfl

/-! ### `respond` -/

@[simp] theorem State.respond_cfg (d : BitVec 32) : (s.respond d).cfg = s.cfg := rfl
@[simp] theorem State.respond_fb (d : BitVec 32) : (s.respond d).fb = s.fb := rfl
@[simp] theorem State.respond_rot (d : BitVec 32) : (s.respond d).rot = s.rot := rfl
@[simp] theorem State.respond_vcom (d : BitVec 32) : (s.respond d).vcom = s.vcom := rfl
@[simp] theorem State.respond_inited (d : BitVec 32) : (s.respond d).inited = s.inited := rfl
@[simp] theorem State.respond_spiHeld (d : BitVec 32) : (s.respond d).spiHeld = s.spiHeld := rfl
@[simp] theorem State.respond_fault (d : BitVec 32) : (s.respond d).fault = s.fault := rfl
@[simp] theorem State.respond_scs (d : BitVec 32) : (s.respond d).scs = s.scs := rfl
@[simp] theorem State.respond_sclk (d : BitVec 32) : (s.respond d).sclk = s.sclk := rfl
@[simp] theorem State.respond_si (d : BitVec 32) : (s.respond d).si = s.si := rfl
@[simp] theorem State.respond_txnOpen (d : BitVec 32) : (s.respond d).txnOpen = s.txnOpen := rfl
@[simp] theorem State.respond_phase (d : BitVec 32) : (s.respond d).phase = s.phase := rfl
@[simp] theorem State.respond_pend (d : BitVec 32) : (s.respond d).pend = s.pend := rfl
@[simp] theorem State.respond_rspValid (d : BitVec 32) : (s.respond d).rspValid = true := rfl
@[simp] theorem State.respond_rsp (d : BitVec 32) : (s.respond d).rsp = responseWord 0#2 d := rfl
@[simp] theorem State.respond_cmds (d : BitVec 32) : (s.respond d).cmds = s.cmds := rfl
@[simp] theorem State.respond_rstIn (d : BitVec 32) : (s.respond d).rstIn = s.rstIn := rfl
@[simp] theorem State.respond_initOkIn (d : BitVec 32) : (s.respond d).initOkIn = s.initOkIn := rfl
@[simp] theorem State.respond_draws (d : BitVec 32) : (s.respond d).draws = s.draws := rfl
@[simp] theorem State.respond_now (d : BitVec 32) : (s.respond d).now = s.now := rfl
@[simp] theorem State.respond_trace (d : BitVec 32) : (s.respond d).trace = s.trace ++ [.response (responseWord 0#2 d)] := rfl

/-! ### `raise` -/

@[simp] theorem State.raise_cfg (f : FaultKind) : (s.raise f).cfg = s.cfg := rfl
@[simp] theorem State.raise_fb (f : FaultKind) : (s.raise f).fb = s.fb := rfl
@[simp] theorem State.raise_rot (f : FaultKind) : (s.raise f).rot = s.rot := rfl
@[simp] theorem State.raise_vcom (f : FaultKind) : (s.raise f).vcom = s.vcom := rfl
@[simp] theorem State.raise_inited (f : FaultKind) : (s.raise f).inited = s.inited := rfl
@[simp] theorem State.raise_spiHeld (f : FaultKind) : (s.raise f).spiHeld = s.spiHeld := rfl
@[simp] theorem State.raise_fault (f : FaultKind) : (s.raise f).fault = stickyFault s.fault f.code := rfl
@[simp] theorem State.raise_scs (f : FaultKind) : (s.raise f).scs = s.scs := rfl
@[simp] theorem State.raise_sclk (f : FaultKind) : (s.raise f).sclk = s.sclk := rfl
@[simp] theorem State.raise_si (f : FaultKind) : (s.raise f).si = s.si := rfl
@[simp] theorem State.raise_txnOpen (f : FaultKind) : (s.raise f).txnOpen = s.txnOpen := rfl
@[simp] theorem State.raise_phase (f : FaultKind) : (s.raise f).phase = s.phase := rfl
@[simp] theorem State.raise_pend (f : FaultKind) : (s.raise f).pend = s.pend := rfl
@[simp] theorem State.raise_rspValid (f : FaultKind) : (s.raise f).rspValid = true := rfl
@[simp] theorem State.raise_rsp (f : FaultKind) : (s.raise f).rsp = responseWord f.code 0#32 := rfl
@[simp] theorem State.raise_cmds (f : FaultKind) : (s.raise f).cmds = s.cmds := rfl
@[simp] theorem State.raise_rstIn (f : FaultKind) : (s.raise f).rstIn = s.rstIn := rfl
@[simp] theorem State.raise_initOkIn (f : FaultKind) : (s.raise f).initOkIn = s.initOkIn := rfl
@[simp] theorem State.raise_draws (f : FaultKind) : (s.raise f).draws = s.draws := rfl
@[simp] theorem State.raise_now (f : FaultKind) : (s.raise f).now = s.now := rfl
@[simp] theorem State.raise_trace (f : FaultKind) : (s.raise f).trace = s.trace ++ [.response (responseWord f.code 0#32)] := rfl

/-! ### `clearBuffer` -/

@[simp] theorem State.clearBuffer_cfg : (s.clearBuffer).cfg = s.cfg := rfl
@[simp] theorem State.clearBuffer_fb : (s.clearBuffer).fb = Memory.filled s.cfg.resetByte s.cfg.fbSize 0xFF#8 := rfl
@[simp] theorem State.clearBuffer_rot : (s.clearBuffer).rot = s.rot := rfl
@[simp] theorem State.clearBuffer_vcom : (s.clearBuffer).vcom = s.vcom := rfl
@[simp] theorem State.clearBuffer_inited : (s.clearBuffer).inited = s.inited := rfl
@[simp] theorem State.clearBuffer_spiHeld : (s.clearBuffer).spiHeld = s.spiHeld := rfl
@[simp] theorem State.clearBuffer_fault : (s.clearBuffer).fault = s.fault := rfl
@[simp] theorem State.clearBuffer_scs : (s.clearBuffer).scs = s.scs := rfl
@[simp] theorem State.clearBuffer_sclk : (s.clearBuffer).sclk = s.sclk := rfl
@[simp] theorem State.clearBuffer_si : (s.clearBuffer).si = s.si := rfl
@[simp] theorem State.clearBuffer_txnOpen : (s.clearBuffer).txnOpen = s.txnOpen := rfl
@[simp] theorem State.clearBuffer_phase : (s.clearBuffer).phase = s.phase := rfl
@[simp] theorem State.clearBuffer_pend : (s.clearBuffer).pend = s.pend := rfl
@[simp] theorem State.clearBuffer_rspValid : (s.clearBuffer).rspValid = s.rspValid := rfl
@[simp] theorem State.clearBuffer_rsp : (s.clearBuffer).rsp = s.rsp := rfl
@[simp] theorem State.clearBuffer_cmds : (s.clearBuffer).cmds = s.cmds := rfl
@[simp] theorem State.clearBuffer_rstIn : (s.clearBuffer).rstIn = s.rstIn := rfl
@[simp] theorem State.clearBuffer_initOkIn : (s.clearBuffer).initOkIn = s.initOkIn := rfl
@[simp] theorem State.clearBuffer_draws : (s.clearBuffer).draws = s.draws := rfl
@[simp] theorem State.clearBuffer_now : (s.clearBuffer).now = s.now := rfl
@[simp] theorem State.clearBuffer_trace : (s.clearBuffer).trace = s.trace := rfl

/-! ### `openWith` -/

@[simp] theorem State.openWith_cfg (l : List Item) : (s.openWith l).cfg = s.cfg := rfl
@[simp] theorem State.openWith_fb (l : List Item) : (s.openWith l).fb = s.fb := rfl
@[simp] theorem State.openWith_rot (l : List Item) : (s.openWith l).rot = s.rot := rfl
@[simp] theorem State.openWith_vcom (l : List Item) : (s.openWith l).vcom = s.vcom := rfl
@[simp] theorem State.openWith_inited (l : List Item) : (s.openWith l).inited = s.inited := rfl
@[simp] theorem State.openWith_spiHeld (l : List Item) : (s.openWith l).spiHeld = s.spiHeld := rfl
@[simp] theorem State.openWith_fault (l : List Item) : (s.openWith l).fault = s.fault := rfl
@[simp] theorem State.openWith_scs (l : List Item) : (s.openWith l).scs = s.scs := rfl
@[simp] theorem State.openWith_sclk (l : List Item) : (s.openWith l).sclk = s.sclk := rfl
@[simp] theorem State.openWith_si (l : List Item) : (s.openWith l).si = s.si := rfl
@[simp] theorem State.openWith_txnOpen (l : List Item) : (s.openWith l).txnOpen = s.txnOpen := rfl
@[simp] theorem State.openWith_phase (l : List Item) : (s.openWith l).phase = .conversation := rfl
@[simp] theorem State.openWith_pend (l : List Item) : (s.openWith l).pend = l := rfl
@[simp] theorem State.openWith_rspValid (l : List Item) : (s.openWith l).rspValid = s.rspValid := rfl
@[simp] theorem State.openWith_rsp (l : List Item) : (s.openWith l).rsp = s.rsp := rfl
@[simp] theorem State.openWith_cmds (l : List Item) : (s.openWith l).cmds = s.cmds := rfl
@[simp] theorem State.openWith_rstIn (l : List Item) : (s.openWith l).rstIn = s.rstIn := rfl
@[simp] theorem State.openWith_initOkIn (l : List Item) : (s.openWith l).initOkIn = s.initOkIn := rfl
@[simp] theorem State.openWith_draws (l : List Item) : (s.openWith l).draws = s.draws := rfl
@[simp] theorem State.openWith_now (l : List Item) : (s.openWith l).now = s.now := rfl
@[simp] theorem State.openWith_trace (l : List Item) : (s.openWith l).trace = s.trace := rfl

/-! ### `tick` -/

@[simp] theorem State.tick_cfg : (s.tick).cfg = s.cfg := rfl
@[simp] theorem State.tick_fb : (s.tick).fb = s.fb := rfl
@[simp] theorem State.tick_rot : (s.tick).rot = s.rot := rfl
@[simp] theorem State.tick_vcom : (s.tick).vcom = s.vcom := rfl
@[simp] theorem State.tick_inited : (s.tick).inited = s.inited := rfl
@[simp] theorem State.tick_spiHeld : (s.tick).spiHeld = s.spiHeld := rfl
@[simp] theorem State.tick_fault : (s.tick).fault = s.fault := rfl
@[simp] theorem State.tick_scs : (s.tick).scs = s.scs := rfl
@[simp] theorem State.tick_sclk : (s.tick).sclk = s.sclk := rfl
@[simp] theorem State.tick_si : (s.tick).si = s.si := rfl
@[simp] theorem State.tick_txnOpen : (s.tick).txnOpen = s.txnOpen := rfl
@[simp] theorem State.tick_phase : (s.tick).phase = s.phase := rfl
@[simp] theorem State.tick_pend : (s.tick).pend = s.pend := rfl
@[simp] theorem State.tick_rspValid : (s.tick).rspValid = false := rfl
@[simp] theorem State.tick_rsp : (s.tick).rsp = s.rsp := rfl
@[simp] theorem State.tick_cmds : (s.tick).cmds = s.cmds := rfl
@[simp] theorem State.tick_rstIn : (s.tick).rstIn = s.rstIn.tail := rfl
@[simp] theorem State.tick_initOkIn : (s.tick).initOkIn = s.initOkIn := rfl
@[simp] theorem State.tick_draws : (s.tick).draws = s.draws := rfl
@[simp] theorem State.tick_now : (s.tick).now = s.now + 1 := rfl
@[simp] theorem State.tick_trace : (s.tick).trace = s.trace := rfl

/-! ### `writeTxnOpen` -/

@[simp] theorem State.writeTxnOpen_cfg (v : Bool) : (s.writeTxnOpen v).cfg = s.cfg := rfl
@[simp] theorem State.writeTxnOpen_fb (v : Bool) : (s.writeTxnOpen v).fb = s.fb := rfl
@[simp] theorem State.writeTxnOpen_rot (v : Bool) : (s.writeTxnOpen v).rot = s.rot := rfl
@[simp] theorem State.writeTxnOpen_vcom (v : Bool) : (s.writeTxnOpen v).vcom = s.vcom := rfl
@[simp] theorem State.writeTxnOpen_inited (v : Bool) : (s.writeTxnOpen v).inited = s.inited := rfl
@[simp] theorem State.writeTxnOpen_spiHeld (v : Bool) : (s.writeTxnOpen v).spiHeld = s.spiHeld := rfl
@[simp] theorem State.writeTxnOpen_fault (v : Bool) : (s.writeTxnOpen v).fault = s.fault := rfl
@[simp] theorem State.writeTxnOpen_scs (v : Bool) : (s.writeTxnOpen v).scs = s.scs := rfl
@[simp] theorem State.writeTxnOpen_sclk (v : Bool) : (s.writeTxnOpen v).sclk = s.sclk := rfl
@[simp] theorem State.writeTxnOpen_si (v : Bool) : (s.writeTxnOpen v).si = s.si := rfl
@[simp] theorem State.writeTxnOpen_txnOpen (v : Bool) : (s.writeTxnOpen v).txnOpen = if s.cfg.mode = .hw then v else s.txnOpen := rfl
@[simp] theorem State.writeTxnOpen_phase (v : Bool) : (s.writeTxnOpen v).phase = s.phase := rfl
@[simp] theorem State.writeTxnOpen_pend (v : Bool) : (s.writeTxnOpen v).pend = s.pend := rfl
@[simp] theorem State.writeTxnOpen_rspValid (v : Bool) : (s.writeTxnOpen v).rspValid = s.rspValid := rfl
@[simp] theorem State.writeTxnOpen_rsp (v : Bool) : (s.writeTxnOpen v).rsp = s.rsp := rfl
@[simp] theorem State.writeTxnOpen_cmds (v : Bool) : (s.writeTxnOpen v).cmds = s.cmds := rfl
@[simp] theorem State.writeTxnOpen_rstIn (v : Bool) : (s.writeTxnOpen v).rstIn = s.rstIn := rfl
@[simp] theorem State.writeTxnOpen_initOkIn (v : Bool) : (s.writeTxnOpen v).initOkIn = s.initOkIn := rfl
@[simp] theorem State.writeTxnOpen_draws (v : Bool) : (s.writeTxnOpen v).draws = s.draws := rfl
@[simp] theorem State.writeTxnOpen_now (v : Bool) : (s.writeTxnOpen v).now = s.now := rfl
@[simp] theorem State.writeTxnOpen_trace (v : Bool) : (s.writeTxnOpen v).trace = s.trace := rfl

/-! ### `writeSpiHeld` -/

@[simp] theorem State.writeSpiHeld_cfg (v : Bool) : (s.writeSpiHeld v).cfg = s.cfg := rfl
@[simp] theorem State.writeSpiHeld_fb (v : Bool) : (s.writeSpiHeld v).fb = s.fb := rfl
@[simp] theorem State.writeSpiHeld_rot (v : Bool) : (s.writeSpiHeld v).rot = s.rot := rfl
@[simp] theorem State.writeSpiHeld_vcom (v : Bool) : (s.writeSpiHeld v).vcom = s.vcom := rfl
@[simp] theorem State.writeSpiHeld_inited (v : Bool) : (s.writeSpiHeld v).inited = s.inited := rfl
@[simp] theorem State.writeSpiHeld_spiHeld (v : Bool) : (s.writeSpiHeld v).spiHeld = if s.cfg.mode = .hw then v else s.spiHeld := rfl
@[simp] theorem State.writeSpiHeld_fault (v : Bool) : (s.writeSpiHeld v).fault = s.fault := rfl
@[simp] theorem State.writeSpiHeld_scs (v : Bool) : (s.writeSpiHeld v).scs = s.scs := rfl
@[simp] theorem State.writeSpiHeld_sclk (v : Bool) : (s.writeSpiHeld v).sclk = s.sclk := rfl
@[simp] theorem State.writeSpiHeld_si (v : Bool) : (s.writeSpiHeld v).si = s.si := rfl
@[simp] theorem State.writeSpiHeld_txnOpen (v : Bool) : (s.writeSpiHeld v).txnOpen = s.txnOpen := rfl
@[simp] theorem State.writeSpiHeld_phase (v : Bool) : (s.writeSpiHeld v).phase = s.phase := rfl
@[simp] theorem State.writeSpiHeld_pend (v : Bool) : (s.writeSpiHeld v).pend = s.pend := rfl
@[simp] theorem State.writeSpiHeld_rspValid (v : Bool) : (s.writeSpiHeld v).rspValid = s.rspValid := rfl
@[simp] theorem State.writeSpiHeld_rsp (v : Bool) : (s.writeSpiHeld v).rsp = s.rsp := rfl
@[simp] theorem State.writeSpiHeld_cmds (v : Bool) : (s.writeSpiHeld v).cmds = s.cmds := rfl
@[simp] theorem State.writeSpiHeld_rstIn (v : Bool) : (s.writeSpiHeld v).rstIn = s.rstIn := rfl
@[simp] theorem State.writeSpiHeld_initOkIn (v : Bool) : (s.writeSpiHeld v).initOkIn = s.initOkIn := rfl
@[simp] theorem State.writeSpiHeld_draws (v : Bool) : (s.writeSpiHeld v).draws = s.draws := rfl
@[simp] theorem State.writeSpiHeld_now (v : Bool) : (s.writeSpiHeld v).now = s.now := rfl
@[simp] theorem State.writeSpiHeld_trace (v : Bool) : (s.writeSpiHeld v).trace = s.trace := rfl

/-! ### `restPins` -/

@[simp] theorem State.restPins_cfg : (s.restPins).cfg = s.cfg := rfl
@[simp] theorem State.restPins_fb : (s.restPins).fb = s.fb := rfl
@[simp] theorem State.restPins_rot : (s.restPins).rot = s.rot := rfl
@[simp] theorem State.restPins_vcom : (s.restPins).vcom = s.vcom := rfl
@[simp] theorem State.restPins_inited : (s.restPins).inited = s.inited := rfl
@[simp] theorem State.restPins_spiHeld : (s.restPins).spiHeld = s.spiHeld := rfl
@[simp] theorem State.restPins_fault : (s.restPins).fault = s.fault := rfl
@[simp] theorem State.restPins_scs : (s.restPins).scs = false := rfl
@[simp] theorem State.restPins_sclk : (s.restPins).sclk = if s.cfg.mode = .sw then false else s.sclk := rfl
@[simp] theorem State.restPins_si : (s.restPins).si = s.si := rfl
@[simp] theorem State.restPins_txnOpen : (s.restPins).txnOpen = s.txnOpen := rfl
@[simp] theorem State.restPins_phase : (s.restPins).phase = s.phase := rfl
@[simp] theorem State.restPins_pend : (s.restPins).pend = s.pend := rfl
@[simp] theorem State.restPins_rspValid : (s.restPins).rspValid = s.rspValid := rfl
@[simp] theorem State.restPins_rsp : (s.restPins).rsp = s.rsp := rfl
@[simp] theorem State.restPins_cmds : (s.restPins).cmds = s.cmds := rfl
@[simp] theorem State.restPins_rstIn : (s.restPins).rstIn = s.rstIn := rfl
@[simp] theorem State.restPins_initOkIn : (s.restPins).initOkIn = s.initOkIn := rfl
@[simp] theorem State.restPins_draws : (s.restPins).draws = s.draws := rfl
@[simp] theorem State.restPins_now : (s.restPins).now = s.now := rfl

/-! ### `settle` -/

@[simp] theorem State.settle_cfg : (s.settle).cfg = s.cfg := by
  unfold State.settle; split <;> simp_all
@[simp] theorem State.settle_fb : (s.settle).fb = s.fb := by
  unfold State.settle; split <;> simp_all
@[simp] theorem State.settle_rot : (s.settle).rot = s.rot := by
  unfold State.settle; split <;> simp_all
@[simp] theorem State.settle_vcom : (s.settle).vcom = s.vcom := by
  unfold State.settle; split <;> simp_all
@[simp] theorem State.settle_inited : (s.settle).inited = s.inited := by
  unfold State.settle; split <;> simp_all
@[simp] theorem State.settle_spiHeld : (s.settle).spiHeld = s.spiHeld := by
  unfold State.settle; split <;> simp_all
@[simp] theorem State.settle_fault : (s.settle).fault = s.fault := by
  unfold State.settle; split <;> simp_all
@[simp] theorem State.settle_scs : (s.settle).scs = s.scs := by
  unfold State.settle; split <;> simp_all
@[simp] theorem State.settle_sclk : (s.settle).sclk = s.sclk := by
  unfold State.settle; split <;> simp_all
@[simp] theorem State.settle_si : (s.settle).si = s.si := by
  unfold State.settle; split <;> simp_all
@[simp] theorem State.settle_txnOpen : (s.settle).txnOpen = s.txnOpen := by
  unfold State.settle; split <;> simp_all
@[simp] theorem State.settle_phase : (s.settle).phase = if s.pend = [] then .idle else s.phase := by
  unfold State.settle; split <;> simp_all
@[simp] theorem State.settle_pend : (s.settle).pend = s.pend := by
  unfold State.settle; split <;> simp_all
@[simp] theorem State.settle_rspValid : (s.settle).rspValid = if s.pend = [] then true else s.rspValid := by
  unfold State.settle; split <;> simp_all
@[simp] theorem State.settle_rsp : (s.settle).rsp = if s.pend = [] then responseWord 0#2 0#32 else s.rsp := by
  unfold State.settle; split <;> simp_all
@[simp] theorem State.settle_cmds : (s.settle).cmds = s.cmds := by
  unfold State.settle; split <;> simp_all
@[simp] theorem State.settle_rstIn : (s.settle).rstIn = s.rstIn := by
  unfold State.settle; split <;> simp_all
@[simp] theorem State.settle_initOkIn : (s.settle).initOkIn = s.initOkIn := by
  unfold State.settle; split <;> simp_all
@[simp] theorem State.settle_draws : (s.settle).draws = s.draws := by
  unfold State.settle; split <;> simp_all
@[simp] theorem State.settle_now : (s.settle).now = s.now := by
  unfold State.settle; split <;> simp_all
@[simp] theorem State.settle_trace : (s.settle).trace = if s.pend = [] then s.trace ++ [.response (responseWord 0#2 0#32)] else s.trace := by
  unfold State.settle; split <;> simp_all

/-! ### `applyReset` -/

@[simp] theorem State.applyReset_cfg : s.applyReset.cfg = s.cfg := rfl
@[simp] theorem State.applyReset_fb : s.applyReset.fb = (State.resetOf s.cfg).fb := rfl
@[simp] theorem State.applyReset_rot : s.applyReset.rot = (State.resetOf s.cfg).rot := rfl
@[simp] theorem State.applyReset_vcom : s.applyReset.vcom = (State.resetOf s.cfg).vcom := rfl
@[simp] theorem State.applyReset_inited : s.applyReset.inited = (State.resetOf s.cfg).inited := rfl
@[simp] theorem State.applyReset_spiHeld : s.applyReset.spiHeld = (State.resetOf s.cfg).spiHeld := rfl
@[simp] theorem State.applyReset_fault : s.applyReset.fault = (State.resetOf s.cfg).fault := rfl
@[simp] theorem State.applyReset_scs : s.applyReset.scs = (State.resetOf s.cfg).scs := rfl
@[simp] theorem State.applyReset_sclk : s.applyReset.sclk = (State.resetOf s.cfg).sclk := rfl
@[simp] theorem State.applyReset_si : s.applyReset.si = (State.resetOf s.cfg).si := rfl
@[simp] theorem State.applyReset_txnOpen : s.applyReset.txnOpen = (State.resetOf s.cfg).txnOpen := rfl
@[simp] theorem State.applyReset_phase : s.applyReset.phase = (State.resetOf s.cfg).phase := rfl
@[simp] theorem State.applyReset_pend : s.applyReset.pend = (State.resetOf s.cfg).pend := rfl
@[simp] theorem State.applyReset_rspValid : s.applyReset.rspValid = (State.resetOf s.cfg).rspValid := rfl
@[simp] theorem State.applyReset_rsp : s.applyReset.rsp = (State.resetOf s.cfg).rsp := rfl
@[simp] theorem State.applyReset_cmds : s.applyReset.cmds = s.cmds := rfl
@[simp] theorem State.applyReset_rstIn : s.applyReset.rstIn = s.rstIn := rfl
@[simp] theorem State.applyReset_initOkIn : s.applyReset.initOkIn = s.initOkIn := rfl
@[simp] theorem State.applyReset_draws : s.applyReset.draws = s.draws := rfl
@[simp] theorem State.applyReset_now : s.applyReset.now = s.now := rfl

end Sys2Proof.Machine
end

