-- ==== Sys2Proof/Laws/Ops.lean ====
section
/-! SUPPORT. One lemma for each shared operation that says everything it can do. -/

namespace Sys2Proof.Machine

variable {s t : State}

/-! ### Preconditions -/

/-- Everything the INITED check can answer. -/
theorem requireInit_next {k : Host.Outcome State Fault Refusal} (h : requireInit s k = .next t) :
    (s.inited = true ∧ k = .next t) ∨ (s.inited = false ∧ t = s.raise .notInitialized) := by
  unfold requireInit at h
  split at h
  · exact .inl ⟨by assumption, h⟩
  · cases h
    exact .inr ⟨by simp_all, rfl⟩

theorem requireInit_ready {k : Host.Outcome State Fault Refusal} (h : s.inited = true) : requireInit s k = k := by
  simp [requireInit, h]

theorem requireInit_raise {k : Host.Outcome State Fault Refusal} (h : s.inited = false) :
    requireInit s k = .next (s.raise .notInitialized) := by
  simp [requireInit, h]

/-- The transport check passes exactly when INITED = 1 and, in HW mode, SPI_HELD = 1. -/
theorem requireTransport_ready {k : Host.Outcome State Fault Refusal}
    (h : s.inited = true) (h' : s.cfg.mode = .sw ∨ s.spiHeldBit = true) : requireTransport s k = k := by
  unfold requireTransport
  rw [requireInit_ready h, if_neg]
  rcases h' with h' | h' <;> simp [h']

/-- Everything the checks of a conversation command can answer. -/
theorem requireTransport_next {k : Host.Outcome State Fault Refusal} (h : requireTransport s k = .next t) :
    (s.inited = true ∧ (s.cfg.mode = .sw ∨ s.spiHeldBit = true) ∧ k = .next t) ∨
    (s.inited = false ∧ t = s.raise .notInitialized) ∨
    (s.inited = true ∧ s.cfg.mode = .hw ∧ s.spiHeldBit = false ∧ t = s.raise .transportReleased) := by
  rcases requireInit_next h with ⟨hi, h⟩ | h
  · split at h
    · rename_i hm
      cases h
      simp only [Bool.and_eq_true, decide_eq_true_eq, Bool.not_eq_true'] at hm
      exact .inr (.inr ⟨hi, hm.1, hm.2, rfl⟩)
    · rename_i hm
      refine .inl ⟨hi, ?_, h⟩
      cases hmode : s.cfg.mode with
      | sw => exact .inl rfl
      | hw => exact .inr (by simpa [hmode] using hm)
  · exact .inr (.inl h)

/-! ### The operand form -/

/-- Everything `pixelLoc` can answer when it names a location (R132, R135). -/
theorem pixelLoc_some {c : Config} {r : RotState} {x y : CoordField} {p : Nat × Nat} (h : pixelLoc c r x y = some p) :
    0 ≤ x.toInt ∧ x.toInt < logicalWidth c r ∧ 0 ≤ y.toInt ∧ y.toInt < logicalHeight c r ∧
    p = loc c r x.toInt.toNat y.toInt.toNat := by
  unfold pixelLoc inRange coordValue at h
  split at h
  · rename_i hr
    simp only [Bool.and_eq_true, decide_eq_true_eq] at hr
    exact ⟨hr.1.1.1, hr.1.1.2, hr.1.2, hr.2, (Option.some.inj h).symm⟩
  · cases h

/-! ### Actions -/

/-- What every action leaves (R40). -/
theorem State.perform_frame (s : State) (a : Action) :
    (s.perform a).cfg = s.cfg ∧ (s.perform a).rot = s.rot ∧ (s.perform a).inited = s.inited ∧
    (s.perform a).spiHeld = s.spiHeld ∧ (s.perform a).fault = s.fault ∧ (s.perform a).phase = s.phase ∧
    (s.perform a).pend = s.pend ∧ (s.perform a).rspValid = s.rspValid ∧ (s.perform a).rsp = s.rsp ∧
    (s.perform a).cmds = s.cmds ∧ (s.perform a).rstIn = s.rstIn ∧ (s.perform a).initOkIn = s.initOkIn ∧
    (s.perform a).draws = s.draws ∧ (s.perform a).now = s.now := by
  cases a <;> simp [State.perform] <;> split <;> simp

@[simp] theorem State.perform_cfg (s : State) (a : Action) : (s.perform a).cfg = s.cfg := by
  have := s.perform_frame a; simp_all
@[simp] theorem State.perform_rot (s : State) (a : Action) : (s.perform a).rot = s.rot := by
  have := s.perform_frame a; simp_all
@[simp] theorem State.perform_inited (s : State) (a : Action) : (s.perform a).inited = s.inited := by
  have := s.perform_frame a; simp_all
@[simp] theorem State.perform_spiHeld (s : State) (a : Action) : (s.perform a).spiHeld = s.spiHeld := by
  have := s.perform_frame a; simp_all
@[simp] theorem State.perform_fault (s : State) (a : Action) : (s.perform a).fault = s.fault := by
  have := s.perform_frame a; simp_all
@[simp] theorem State.perform_phase (s : State) (a : Action) : (s.perform a).phase = s.phase := by
  have := s.perform_frame a; simp_all
@[simp] theorem State.perform_pend (s : State) (a : Action) : (s.perform a).pend = s.pend := by
  have := s.perform_frame a; simp_all
@[simp] theorem State.perform_rspValid (s : State) (a : Action) : (s.perform a).rspValid = s.rspValid := by
  have := s.perform_frame a; simp_all
@[simp] theorem State.perform_rsp (s : State) (a : Action) : (s.perform a).rsp = s.rsp := by
  have := s.perform_frame a; simp_all
@[simp] theorem State.perform_cmds (s : State) (a : Action) : (s.perform a).cmds = s.cmds := by
  have := s.perform_frame a; simp_all
@[simp] theorem State.perform_rstIn (s : State) (a : Action) : (s.perform a).rstIn = s.rstIn := by
  have := s.perform_frame a; simp_all
@[simp] theorem State.perform_initOkIn (s : State) (a : Action) : (s.perform a).initOkIn = s.initOkIn := by
  have := s.perform_frame a; simp_all
@[simp] theorem State.perform_draws (s : State) (a : Action) : (s.perform a).draws = s.draws := by
  have := s.perform_frame a; simp_all
@[simp] theorem State.perform_now (s : State) (a : Action) : (s.perform a).now = s.now := by
  have := s.perform_frame a; simp_all

/-- SCS after an action. -/
def actScs : Action → Bool → Bool
  | .cs v, _ => v
  | _, old => old

/-- SCLK after an action. -/
def actSclk : Action → Bool → Bool
  | .clk v, _ => v
  | _, old => old

/-- SI after an action. -/
def actSi : Action → Bool → Bool
  | .dat v, _ => v
  | _, old => old

/-- VCOM after an action. -/
def actVcom : Action → Bool → Bool
  | .toggleVcom, old => !old
  | _, old => old

/-- TXN_OPEN after an action (R33). -/
def actTxn (m : Mode) : Action → Bool → Bool
  | .txnBegin, old => if m = .hw then true else old
  | .txnEnd, old => if m = .hw then false else old
  | _, old => old

/-- What an action writes, level by level (R40). -/
theorem State.perform_writes (s : State) (a : Action) :
    (s.perform a).scs = actScs a s.scs ∧ (s.perform a).sclk = actSclk a s.sclk ∧ (s.perform a).si = actSi a s.si ∧
    (s.perform a).vcom = actVcom a s.vcom ∧ (s.perform a).txnOpen = actTxn s.cfg.mode a s.txnOpen ∧
    (s.perform a).fb = (if a = .fbClear then s.clearBuffer.fb else s.fb) := by
  cases a <;> simp [State.perform, actScs, actSclk, actSi, actVcom, actTxn] <;> split <;> simp_all

/-- The pins are a view of six fields only. -/
theorem State.pins_congr (hc : t.cfg = s.cfg) (h1 : t.scs = s.scs) (h2 : t.sclk = s.sclk) (h3 : t.si = s.si)
    (h4 : t.txnOpen = s.txnOpen) (h5 : t.now = s.now) : t.pins = s.pins := by
  simp [State.pins, State.txnOpenBit, hc, h1, h2, h3, h4, h5]

/-- Ending a conversation moves no pin (R40). -/
theorem State.settle_pins (s : State) : s.settle.pins = s.pins := by
  apply State.pins_congr <;> simp

/-- What an action lets an observer see (R14). -/
theorem State.perform_trace (s : State) (a : Action) :
    ∃ seen : List Obs, (s.perform a).trace = s.trace ++ seen ∧ seen.filterMap (fun o => match o with
      | .response r => some r | _ => none) = [] := by
  cases a
  case txnBegin => by_cases h : s.cfg.mode = .hw <;> simp [State.perform, h]
  case txnEnd => by_cases h : s.cfg.mode = .hw <;> simp [State.perform, h]
  case toggleVcom => exact ⟨[], (List.append_nil _).symm, rfl⟩
  case fbClear => exact ⟨[], (List.append_nil _).symm, rfl⟩
  all_goals exact ⟨[_], rfl, rfl⟩

/-- Performing the head of PEND (R40). -/
theorem State.advance_act {a : Action} {p : List Item} (h : s.pend = .act a :: p) :
    s.advance = State.settle (State.perform { s with pend := p } a) := by
  simp [State.advance, h]

/-- While entries are left the conversation goes on. -/
theorem State.settle_more (h : s.pend ≠ []) : s.settle = s := if_neg h

/-- With none left it is over (R40). -/
theorem State.settle_done (h : s.pend = []) : s.settle = State.respond { s with phase := .idle } 0#32 := if_pos h

/-- Ending a conversation writes PHASE and the response port only (R40). -/
theorem State.settle_frame (s : State) :
    s.settle = { s with phase := s.settle.phase, rspValid := s.settle.rspValid, rsp := s.settle.rsp, trace := s.settle.trace } := by
  by_cases h : s.pend = []
  · rw [s.settle_done h]; rfl
  · rw [s.settle_more h]


/-! ### The byte engine -/

theorem State.canTransfer_iff : s.canTransfer = true ↔
    s.phase = .conversation ∧ s.scs = true ∧ (s.cfg.mode = .sw ∨ s.txnOpenBit = true) := by
  simp [State.canTransfer, and_assoc]

/-- Everything `sendByte` can answer. -/
theorem sendByte_next {b : Byte} (h : sendByte b s = .next t) :
    s.canTransfer = true ∧ t = State.advance { s with pend := (xfer b).map Item.act ++ s.pend } := by
  unfold sendByte at h
  split at h
  · cases h
    exact ⟨by assumption, rfl⟩
  · cases h

/-- The byte engine's next state, written out: the clock is low and 24 actions are left. -/
theorem State.advance_xfer (s : State) (b : Byte) :
    State.advance { s with pend := (xfer b).map Item.act ++ s.pend }
      = State.observePins { s with sclk := false, pend := (xfer b).tail.map Item.act ++ s.pend } := by
  rw [State.advance_act (a := .clk false) (p := (xfer b).tail.map Item.act ++ s.pend) rfl, State.settle_more]
  · rfl
  · simp [xfer, xferBit]

end Sys2Proof.Machine
end

