-- ==== Sys2Proof/Laws/Addressing.lean ====
section
/-! SUPPORT. The operand forms, the bit of a byte, the fields of a response, and what a well-formed configuration says, each
said once. -/

namespace Sys2Proof

/-- A well-formed configuration, read as a proposition (R5, R6). -/
theorem Config.wf_iff (c : Config) : c.wf = true ↔
    c.width % 8 = 0 ∧ 8 ≤ c.width ∧ c.width ≤ 32760 ∧ 1 ≤ c.height ∧ c.height ≤ 255 ∧
    c.fbReset.length = c.fbSize ∧ 1 ≤ c.fSclkHz ∧ 1 ≤ c.tPulseMin ∧ 1 ≤ c.tVcomMax := by
  simp [Config.wf, and_assoc]

/-- The width in whole bytes. -/
theorem Config.width_eq (c : Config) (h : c.wf = true) : c.width = 8 * c.rowBytes := by
  have := (c.wf_iff.1 h).1
  unfold Config.rowBytes
  omega

/-- The buffer is `H` rows of `B` bytes. -/
theorem Config.fbSize_eq (c : Config) (h : c.wf = true) : c.fbSize = c.height * c.rowBytes := by
  unfold Config.fbSize
  rw [c.width_eq h, Nat.mul_assoc, Nat.mul_div_cancel_left _ (by decide), Nat.mul_comm]

/-- A rotation state is one of four (R22). -/
theorem RotState.cases (r : RotState) : r = 0#2 ∨ r = 1#2 ∨ r = 2#2 ∨ r = 3#2 := by revert r; decide

end Sys2Proof

namespace Sys2Proof.Machine

/-- A byte with one bit replaced, bit by bit (R69). -/
theorem withBit_getLsbD (b : Byte) (k k' : Nat) (v : Bool) (hk' : k' < 8) (hk : k < 8) :
    (withBit b k v).getLsbD k' = if k' = k then v else b.getLsbD k' := by
  interval_cases k <;> interval_cases k' <;> cases v <;> simp [withBit]

/-- A bit as a response's data (R139). -/
theorem bitData_eq (b : Byte) (k : Nat) (hk : k < 8) : bitData b k = if b.getLsbD k then 1#32 else 0#32 := by
  revert b
  interval_cases k <;> decide

/-- The fields of a response word (R95). -/
theorem rspErr_responseWord (e : BitVec 2) (d : BitVec 32) : rspErr (responseWord e d) = e :=
  BitVec.extractLsb'_append_eq_left

theorem rspData_responseWord (e : BitVec 2) (d : BitVec 32) : rspData (responseWord e d) = d :=
  BitVec.extractLsb'_append_eq_right

/-- A byte of the buffer depends on the configuration and the memory only. -/
theorem State.byteAt_congr {s t : State} (hc : t.cfg = s.cfg) (hf : t.fb = s.fb) (a : Nat) : t.byteAt a = s.byteAt a := by
  simp [State.byteAt, hc, hf]

/-- A located pixel's bit number is below 8 (R135). -/
theorem pixelLoc_bit {c : Config} {r : RotState} {x y : CoordField} {a k : Nat} (h : pixelLoc c r x y = some (a, k)) :
    k < 8 := by
  have := (Prod.ext_iff.1 (pixelLoc_some h).2.2.2.2).2
  simp only [loc] at this
  omega

/-- A located pixel's byte is in the buffer of a well-formed instance (R135, R68). -/
theorem pixelLoc_lt {c : Config} {r : RotState} {x y : CoordField} {a k : Nat} (hw : c.wf = true)
    (h : pixelLoc c r x y = some (a, k)) : a < c.fbSize := by
  obtain ⟨h1, h2, h3, h4, h5⟩ := pixelLoc_some h
  have ha := (Prod.ext_iff.1 h5).1
  have hs := c.wf_iff.1 hw
  have key : ∀ X Y, X < c.width → Y < c.height → (Y * c.width + X) / 8 < c.fbSize := by
    intro X Y hx hy
    have e1 := c.width_eq hw
    rw [c.fbSize_eq hw]
    have hm : (Y + 1) * (8 * c.rowBytes) ≤ c.height * (8 * c.rowBytes) := Nat.mul_le_mul_right _ hy
    rw [Nat.add_mul, Nat.mul_left_comm c.height] at hm
    rw [e1] at hx ⊢
    omega
  simp only [loc, bitIndex] at ha
  rw [ha]
  simp only [logicalWidth, logicalHeight] at h2 h4
  rcases RotState.cases r with rfl | rfl | rfl | rfl <;> simp at h2 h4 <;> apply key <;> simp [phys] <;> omega

end Sys2Proof.Machine
end

