-- ==== Sys2Proof/Laws/Exec.lean ====
section
/-! SUPPORT. What each instruction can answer, said once: its inversion when it gives a next state. -/

namespace Sys2Proof.Machine

variable {s t : State}

/-- The preconditions of a conversation command, as a proposition (R195). -/
theorem State.transportReady_iff (s : State) :
    s.transportReady = true ↔ s.inited = true ∧ (s.cfg.mode = .sw ∨ s.spiHeldBit = true) := by
  simp [State.transportReady]

/-- Everything SETPIXEL can answer (R138). -/
theorem execSetPixel_next {x y : CoordField} {v : Bool} (h : execSetPixel x y v s = .next t) :
    (s.inited = false ∧ t = s.raise .notInitialized) ∨
    (s.inited = true ∧ pixelLoc s.cfg s.rot x y = none ∧ t = s.respond 0#32) ∨
    (∃ a k, s.inited = true ∧ pixelLoc s.cfg s.rot x y = some (a, k) ∧ a < s.cfg.fbSize ∧
      t = State.respond { s with fb := Memory.write s.cfg.resetByte s.fb a (withBit (s.byteAt a) k v) } 0#32) := by
  rcases requireInit_next h with ⟨hi, h⟩ | h
  · split at h
    · cases h
      exact .inr (.inl ⟨hi, by assumption, rfl⟩)
    · rename_i a k hp
      split at h
      · cases h
      · rename_i b hb
        obtain ⟨ha, rfl⟩ := State.memRead_ok hb
        split at h
        · cases h
        · rename_i u hu
          cases h
          obtain ⟨-, rfl⟩ := State.memWrite_ok hu
          exact .inr (.inr ⟨a, k, hi, hp, ha, rfl⟩)
  · exact .inl h

/-- Everything GETPIXEL can answer (R139). -/
theorem execGetPixel_next {x y : CoordField} (h : execGetPixel x y s = .next t) :
    (s.inited = false ∧ t = s.raise .notInitialized) ∨
    (s.inited = true ∧ pixelLoc s.cfg s.rot x y = none ∧ t = s.respond 0#32) ∨
    (∃ a k, s.inited = true ∧ pixelLoc s.cfg s.rot x y = some (a, k) ∧ a < s.cfg.fbSize ∧
      t = s.respond (bitData (s.byteAt a) k)) := by
  rcases requireInit_next h with ⟨hi, h⟩ | h
  · split at h
    · cases h
      exact .inr (.inl ⟨hi, by assumption, rfl⟩)
    · rename_i a k hp
      split at h
      · cases h
      · rename_i b hb
        cases h
        obtain ⟨ha, rfl⟩ := State.memRead_ok hb
        exact .inr (.inr ⟨a, k, hi, hp, ha, rfl⟩)
  · exact .inl h

/-- A located pixel's byte exists on a well-formed instance, so SETPIXEL and GETPIXEL meet it (R135). -/
theorem execSetPixel_ready {x y : CoordField} {v : Bool} {a k : Nat} (hi : s.inited = true)
    (hp : pixelLoc s.cfg s.rot x y = some (a, k)) (ha : a < s.cfg.fbSize) :
    execSetPixel x y v s = .next
      (State.respond { s with fb := Memory.write s.cfg.resetByte s.fb a (withBit (s.byteAt a) k v) } 0#32) := by
  simp [execSetPixel, requireInit_ready hi, hp, State.memRead, State.memWrite, ha]

theorem execGetPixel_ready {x y : CoordField} {a k : Nat} (hi : s.inited = true)
    (hp : pixelLoc s.cfg s.rot x y = some (a, k)) (ha : a < s.cfg.fbSize) :
    execGetPixel x y s = .next (s.respond (bitData (s.byteAt a) k)) := by
  simp [execGetPixel, requireInit_ready hi, hp, State.memRead, ha]

/-- Everything a conversation command can answer (R190, R195): it opens, or it raises. -/
theorem exec_conversation_next {i : Instr} (hi : i.opensConversation = true) (h : exec i s = .next t) :
    (s.transportReady = true ∧ t = s.openWith (conversationList i s)) ∨
    (s.transportReady = false ∧ ∃ f, t = s.raise f) := by
  have key : ∀ l, requireTransport s (.next (s.openWith l)) = .next t →
      (s.transportReady = true ∧ t = s.openWith l) ∨ (s.transportReady = false ∧ ∃ f, t = s.raise f) := by
    intro l h
    rcases requireTransport_next h with ⟨h1, h2, h3⟩ | ⟨h1, h2⟩ | ⟨h1, h2, h3, h4⟩
    · cases h3
      exact .inl ⟨s.transportReady_iff.2 ⟨h1, h2⟩, rfl⟩
    · exact .inr ⟨by simp [State.transportReady, h1], _, h2⟩
    · exact .inr ⟨by simp [State.transportReady, h2, h3], _, h4⟩
  cases i <;> first | exact key _ h | cases hi

/-- A conversation command that passes its checks opens with its list (R190). -/
theorem exec_conversation_ready {i : Instr} (hi : i.opensConversation = true) (h : s.transportReady = true) :
    exec i s = .next (s.openWith (conversationList i s)) := by
  obtain ⟨h1, h2⟩ := s.transportReady_iff.1 h
  cases i <;> first | exact requireTransport_ready h1 h2 | cases hi

/-- The byte of a wire item (R99 to R103). -/
def itemByte : Instr → Byte
  | .wireCmdWrite v => commandByte writeCommand v
  | .wireCmdClear v => commandByte clearCommand v
  | .wireLineAddr a => a
  | .wireData d => d
  | _ => 0x00#8

/-- A wire item is its byte given to the engine. -/
theorem exec_wire {i : Instr} (hi : i.isHostCommand = false) : exec i s = sendByte (itemByte i) s := by
  cases i <;> first | rfl | cases hi

/-- A decoded byte is the byte of its item. -/
theorem itemByte_decode {k : WireKind} {b : Byte} {i : Instr} (h : decode (.wire k b) = .ok i) :
    i.isHostCommand = false ∧ itemByte i = b := by
  change decodeWire k b = .ok i at h
  cases k with
  | command =>
    simp only [decodeWire] at h
    split at h <;> cases h <;> refine ⟨rfl, ?_⟩ <;> apply BitVec.eq_of_toNat_eq <;> simp_all <;> rfl
  | lineAddr =>
    simp only [decodeWire] at h
    split at h <;> cases h
    exact ⟨rfl, rfl⟩
  | data =>
    cases h
    exact ⟨rfl, rfl⟩
  | zero =>
    simp only [decodeWire] at h
    split at h <;> cases h
    exact ⟨rfl, by simp_all [itemByte]⟩

/-- Everything a wire item can answer (R160, R161). -/
theorem exec_wire_next {i : Instr} (hi : i.isHostCommand = false) (h : exec i s = .next t) :
    s.canTransfer = true ∧
    t = State.observePins { s with sclk := false, pend := (xfer (itemByte i)).tail.map Item.act ++ s.pend } := by
  rw [exec_wire hi] at h
  obtain ⟨h1, h2⟩ := sendByte_next h
  exact ⟨h1, h2.trans (State.advance_xfer _ _)⟩

/-- What every host command leaves, if it does not open a conversation; and it gives one response. -/
theorem exec_host_frame {i : Instr} (hi : i.isHostCommand = true) (hc : i.opensConversation = false)
    (h : exec i s = .next t) :
    t.cfg = s.cfg ∧ t.si = s.si ∧ t.txnOpen = s.txnOpen ∧ t.phase = s.phase ∧ t.pend = s.pend ∧ t.cmds = s.cmds ∧
    t.rstIn = s.rstIn ∧ t.now = s.now ∧ t.rspValid = true ∧
    (t.scs = s.scs ∨ t.scs = false) ∧ (t.sclk = s.sclk ∨ t.sclk = false) ∧
    t.responses = s.responses ++ [t.rsp] := by
  have raised : ∀ f, t = s.raise f → t.cfg = s.cfg ∧ t.si = s.si ∧ t.txnOpen = s.txnOpen ∧ t.phase = s.phase ∧
      t.pend = s.pend ∧ t.cmds = s.cmds ∧ t.rstIn = s.rstIn ∧ t.now = s.now ∧ t.rspValid = true ∧
      (t.scs = s.scs ∨ t.scs = false) ∧ (t.sclk = s.sclk ∨ t.sclk = false) ∧
      t.responses = s.responses ++ [t.rsp] := by
    rintro f rfl
    simp [State.responses, Obs.response?]
  cases i with
  | init =>
    cases h
    by_cases hm : s.cfg.mode = .sw
    · simp [State.initDone, State.restPins, State.responses, hm, Obs.response?]
      split <;> simp [Obs.response?]
    · rcases hl : s.initOkIn with _ | ⟨b, l⟩
      · cases hb : Config.freeInitOk s.draws <;>
          simp [State.initDone, State.initFailed, State.restPins, State.responses, State.initWith, State.sampleInitOk, hm, hl, hb,
            Obs.response?] <;> split <;> simp [Obs.response?]
      · cases b <;>
          simp [State.initDone, State.initFailed, State.restPins, State.responses, State.initWith, State.sampleInitOk, hm, hl,
            Obs.response?] <;> split <;> simp [Obs.response?]
  | shutdown =>
    rcases requireInit_next h with ⟨-, h⟩ | h
    · cases h; simp [State.responses, Obs.response?]
    · exact raised _ h.2
  | setRot r =>
    rcases requireInit_next h with ⟨-, h⟩ | h
    · cases h; simp [State.responses, Obs.response?]
    · exact raised _ h.2
  | setPixel x y v =>
    rcases execSetPixel_next h with h | ⟨-, -, rfl⟩ | ⟨a, k, -, -, -, rfl⟩
    · exact raised _ h.2
    · simp [State.responses, Obs.response?]
    · simp [State.responses, Obs.response?]
  | getPixel x y =>
    rcases execGetPixel_next h with h | ⟨-, -, rfl⟩ | ⟨a, k, -, -, -, rfl⟩
    · exact raised _ h.2
    · simp [State.responses, Obs.response?]
    · simp [State.responses, Obs.response?]
  | clearBuf =>
    rcases requireInit_next h with ⟨-, h⟩ | h
    · cases h; simp [State.responses, Obs.response?]
    · exact raised _ h.2
  | getDim =>
    rcases requireInit_next h with ⟨-, h⟩ | h
    · cases h; simp [State.responses, Obs.response?]
    · exact raised _ h.2
  | rdStat => cases h; simp [State.responses, Obs.response?]
  | _ => first | (cases hc; done) | cases hi

/-- A decoded host word is a host command. -/
theorem isHostCommand_decode {w : HostWord} {i : Instr} (h : decode (.host w) = .ok i) : i.isHostCommand = true := by
  change decodeHost w = .ok i at h
  unfold decodeHost at h
  split at h <;> first | cases h | skip
  all_goals
    simp only [decodePlain, ifZeroBits] at h
    split at h <;> cases h
    rfl

/-- A raise writes FAULT from 0 only, to the code its response carries (R251). -/
theorem State.raise_fault_cases (s : State) (f : FaultKind) :
    (s.raise f).fault = s.fault ∨ (s.fault = 0#2 ∧ (s.raise f).rsp = (s.raise f).fault ++ 0#32) := by
  by_cases h : s.fault = 0#2
  · exact .inr ⟨h, by simp [stickyFault, h, responseWord]⟩
  · exact .inl (by simp [stickyFault, h])

/-- INIT's two outcomes (R231). -/
theorem execInit_next (h : execInit s = .next t) :
    t.cfg = s.cfg ∧ t.fb = s.fb ∧ t.rot = s.rot ∧ t.fault = s.fault ∧ t.scs = false ∧
    t.sclk = (if s.cfg.mode = .sw then false else s.sclk) ∧
    ((t.inited = true ∧ t.vcom = s.cfg.vcomInit ∧ t.spiHeld = (if s.cfg.mode = .hw then true else s.spiHeld)) ∨
     (s.cfg.mode = .hw ∧ t.inited = false ∧ t.vcom = s.vcom ∧ t.spiHeld = false)) := by
  cases h
  cases hm : s.cfg.mode with
  | sw => simp [State.initDone, State.restPins, State.writeSpiHeld, hm]
  | hw =>
    rcases hl : s.initOkIn with _ | ⟨b, l⟩
    · cases hb : Config.freeInitOk s.draws <;>
        simp [State.initDone, State.initFailed, State.restPins, State.writeSpiHeld, State.initWith, State.sampleInitOk, hm, hl, hb]
    · cases b <;>
        simp [State.initDone, State.initFailed, State.restPins, State.writeSpiHeld, State.initWith, State.sampleInitOk, hm, hl]

/-- Who writes what (R21 to R27): the registers a host command that opens no conversation can change, each with the commands
that may. -/
theorem exec_host_writes {i : Instr} (hi : i.isHostCommand = true) (hc : i.opensConversation = false)
    (h : exec i s = .next t) :
    (t.rot = s.rot ∨ i = .setRot t.rot) ∧
    (t.vcom = s.vcom ∨ (i = .init ∧ t.vcom = s.cfg.vcomInit)) ∧
    (t.inited = s.inited ∨ i = .init) ∧
    (t.spiHeld = s.spiHeld ∨ (s.cfg.mode = .hw ∧ (i = .init ∨ i = .shutdown))) ∧
    (t.fault = s.fault ∨ (s.fault = 0#2 ∧ t.rsp = t.fault ++ 0#32)) ∧
    (t.fb = s.fb ∨ i = .clearBuf ∨ ∃ x y v, i = .setPixel x y v) := by
  have raised : ∀ f, t = s.raise f →
      (t.rot = s.rot ∨ i = .setRot t.rot) ∧ (t.vcom = s.vcom ∨ (i = .init ∧ t.vcom = s.cfg.vcomInit)) ∧
      (t.inited = s.inited ∨ i = .init) ∧ (t.spiHeld = s.spiHeld ∨ (s.cfg.mode = .hw ∧ (i = .init ∨ i = .shutdown))) ∧
      (t.fault = s.fault ∨ (s.fault = 0#2 ∧ t.rsp = t.fault ++ 0#32)) ∧
      (t.fb = s.fb ∨ i = .clearBuf ∨ ∃ x y v, i = .setPixel x y v) := by
    rintro f rfl
    exact ⟨.inl rfl, .inl rfl, .inl rfl, .inl rfl, s.raise_fault_cases f, .inl rfl⟩
  cases i with
  | init =>
    obtain ⟨-, h2, h3, h4, -, -, h7⟩ := execInit_next h
    refine ⟨.inl h3, ?_, .inr rfl, ?_, .inl h4, .inl h2⟩
    · rcases h7 with h7 | h7
      · exact .inr ⟨rfl, h7.2.1⟩
      · exact .inl h7.2.2.1
    · cases hm : s.cfg.mode <;> simp_all
  | shutdown =>
    rcases requireInit_next h with ⟨-, h⟩ | h
    · cases h
      refine ⟨.inl rfl, .inl rfl, .inl rfl, ?_, .inl rfl, .inl rfl⟩
      cases hm : s.cfg.mode <;> simp [State.writeSpiHeld, hm]
    · exact raised _ h.2
  | setRot r =>
    rcases requireInit_next h with ⟨-, h⟩ | h
    · cases h
      exact ⟨.inr rfl, .inl rfl, .inl rfl, .inl rfl, .inl rfl, .inl rfl⟩
    · exact raised _ h.2
  | setPixel x y v =>
    rcases execSetPixel_next h with h | ⟨-, -, rfl⟩ | ⟨a, k, -, -, -, rfl⟩
    · exact raised _ h.2
    · exact ⟨.inl rfl, .inl rfl, .inl rfl, .inl rfl, .inl rfl, .inl rfl⟩
    · exact ⟨.inl rfl, .inl rfl, .inl rfl, .inl rfl, .inl rfl, .inr (.inr ⟨x, y, v, rfl⟩)⟩
  | getPixel x y =>
    rcases execGetPixel_next h with h | ⟨-, -, rfl⟩ | ⟨a, k, -, -, -, rfl⟩
    · exact raised _ h.2
    · exact ⟨.inl rfl, .inl rfl, .inl rfl, .inl rfl, .inl rfl, .inl rfl⟩
    · exact ⟨.inl rfl, .inl rfl, .inl rfl, .inl rfl, .inl rfl, .inl rfl⟩
  | clearBuf =>
    rcases requireInit_next h with ⟨-, h⟩ | h
    · cases h
      exact ⟨.inl rfl, .inl rfl, .inl rfl, .inl rfl, .inl rfl, .inr (.inl rfl)⟩
    · exact raised _ h.2
  | getDim =>
    rcases requireInit_next h with ⟨-, h⟩ | h
    · cases h
      exact ⟨.inl rfl, .inl rfl, .inl rfl, .inl rfl, .inl rfl, .inl rfl⟩
    · exact raised _ h.2
  | rdStat =>
    cases h
    exact ⟨.inl rfl, .inl rfl, .inl rfl, .inl rfl, .inl rfl, .inl rfl⟩
  | _ => first | (cases hc; done) | cases hi

end Sys2Proof.Machine
end

