-- ==== Sys2Proof/Laws/Bracket.lean ====
section
/-! SUPPORT. The bracket: a byte's 25 actions leave it as it is, and every list a command loads keeps it (R164, R165, R168). -/

namespace Sys2Proof.Machine

/-- The actions of a byte, from a low clock inside the bracket, leave the bracket as it was. -/
theorem bracketed_xfer (c : Config) (b : Byte) (txn : Bool) (l : List Item) :
    bracketed c true false txn ((xfer b).map Item.act ++ l) = bracketed c true false txn l := by
  simp [xfer, xferBit, bracketed]

/-- The same once the first action is performed. -/
theorem bracketed_xfer_tail (c : Config) (b : Byte) (txn : Bool) (l : List Item) :
    bracketed c true false txn ((xfer b).tail.map Item.act ++ l) = bracketed c true false txn l := by
  simp [xfer, xferBit, bracketed]

/-- An entry a conversation's body may hold: the toggle, or a byte its place allows. -/
def bodyItem (c : Config) : Item → Bool
  | .act a => a == .toggleVcom
  | .byte k b => sendable c k b

/-- A body of such entries leaves the bracket as it was. -/
theorem bracketed_body (c : Config) (txn : Bool) (body l : List Item) (h : ∀ x ∈ body, bodyItem c x = true) :
    bracketed c true false txn (body ++ l) = bracketed c true false txn l := by
  induction body with
  | nil => rfl
  | cons x body ih =>
    have hx := h x (List.mem_cons_self ..)
    have ih := ih fun y hy => h y (List.mem_cons_of_mem _ hy)
    cases x with
    | act a =>
      simp only [bodyItem, beq_iff_eq] at hx
      subst hx
      simpa [bracketed] using ih
    | byte k b =>
      simp only [bodyItem] at hx
      simpa [bracketed, hx] using ih

/-- OPEN, a body of such entries and CLOSE make a bracket (R168). -/
theorem bracketed_conversation (c : Config) (body : List Item) (h : ∀ x ∈ body, bodyItem c x = true) :
    bracketed c false false false (conversation c body) = true := by
  unfold conversation openBracket closeBracket
  cases hm : c.mode <;> simp [bracketed, hm, bracketed_body c _ body _ h]

/-- A command byte is always one of the four. -/
theorem bodyItem_command (c : Config) (s : State) (flag : Byte) (h : flag = writeCommand ∨ flag = clearCommand) :
    bodyItem c (commandItem flag s) = true := by
  rcases h with rfl | rfl <;> cases hv : s.vcom <;>
    simp [bodyItem, commandItem, hv, sendable, commandByte, writeCommand, clearCommand, decode, decodeWire, Instr.wf]

theorem bodyItem_zero (c : Config) : bodyItem c zeroItem = true := rfl

theorem bodyItem_data (c : Config) (d : Byte) : bodyItem c (.byte .data d) = true := rfl

theorem bodyItem_toggle (c : Config) : bodyItem c toggleItem = true := rfl

/-- The address byte of a line of the panel (R101). -/
theorem bodyItem_line (c : Config) (r : Nat) (hw : c.wf = true) (h1 : 1 ≤ r) (h2 : r ≤ c.height) :
    bodyItem c (lineItem r) = true := by
  have hh := c.wf_iff.1 hw
  have hr : (BitVec.ofNat 8 r).toNat = r := by
    rw [BitVec.toNat_ofNat]
    exact Nat.mod_eq_of_lt (by omega)
  have h0 : BitVec.ofNat 8 r ≠ 0#8 := by
    intro h
    rw [h] at hr
    simp at hr
    omega
  simp [bodyItem, lineItem, sendable, decode, decodeWire, h0, Instr.wf, hr, h1, h2]

/-- Every entry of the refresh loop may stand in a body. -/
theorem bodyItem_refreshLoop (c : Config) (fb : Nat → Byte) (hw : c.wf = true) :
    ∀ (fuel sent prev : Nat), ∀ x ∈ refreshLoop c fb fuel sent prev, bodyItem c x = true
  | 0, _, _, x, h => by simp [refreshLoop] at h
  | fuel + 1, sent, prev, x, h => by
    simp only [refreshLoop, List.mem_cons] at h
    rcases h with rfl | h
    · exact bodyItem_data ..
    · split at h
      · rcases List.mem_cons.1 h with rfl | h
        · exact bodyItem_zero c
        · rcases List.mem_append.1 h with h | h
          · split at h
            · rw [List.mem_singleton.1 h]
              exact bodyItem_line c _ hw (Nat.le_add_left ..) (by assumption)
            · cases h
          · exact bodyItem_refreshLoop c fb hw fuel _ _ x h
      · exact bodyItem_refreshLoop c fb hw fuel _ _ x h

/-- Every entry of every body may stand in one. -/
theorem bodyItem_conversationBody (s : State) (hw : s.cfg.wf = true) (i : Instr) :
    ∀ x ∈ conversationBody i s, bodyItem s.cfg x = true := by
  have cmd := fun f h => bodyItem_command s.cfg s f h
  intro x hx
  cases i with
  | refresh =>
    simp only [conversationBody, refreshBody, List.mem_append, List.mem_cons, List.not_mem_nil, or_false] at hx
    rcases hx with ((rfl | rfl | rfl) | hx) | rfl
    · exact cmd _ (.inl rfl)
    · exact bodyItem_toggle _
    · exact bodyItem_line _ _ hw (by omega) (s.cfg.wf_iff.1 hw).2.2.2.1
    · exact bodyItem_refreshLoop _ _ hw _ _ _ x hx
    · exact bodyItem_zero _
  | clearDisp =>
    simp only [conversationBody, clearBody, List.mem_cons, List.not_mem_nil, or_false] at hx
    rcases hx with rfl | rfl | rfl
    · exact cmd _ (.inr rfl)
    · exact bodyItem_zero _
    · exact bodyItem_toggle _
  | vcomTog =>
    simp only [conversationBody, toggleBody, List.mem_cons, List.not_mem_nil, or_false] at hx
    rcases hx with rfl | rfl | rfl
    · exact cmd _ (.inl rfl)
    · exact bodyItem_toggle _
    · exact bodyItem_zero _
  | _ => cases hx

/-- Every list a conversation command loads is a bracket. -/
theorem bracketed_conversationList (s : State) (hw : s.cfg.wf = true) (i : Instr) :
    bracketed s.cfg false false false (conversationList i s) = true := by
  have key := fun i => bracketed_conversation s.cfg _ (bodyItem_conversationBody s hw i)
  cases i <;> first | exact key _ | (simpa [conversationList, conversationBody, bracketed] using key .clearDisp)

/-- No such list is empty. -/
theorem conversationList_ne (i : Instr) (s : State) : conversationList i s ≠ [] := by
  cases i <;> simp [conversationList, conversation, openBracket] <;> cases s.cfg.mode <;> simp

/-- Performing the head action moves along the bracket: what the levels become, and what stays true of them. -/
theorem bracketed_act {c : Config} {scs sclk txn : Bool} {a : Action} {rest : List Item}
    (h : bracketed c scs sclk txn (.act a :: rest) = true) (h4 : txn = true → c.mode = .hw)
    (h5 : c.mode = .hw → scs = true → txn = true) :
    bracketed c (actScs a scs) (actSclk a sclk) (actTxn c.mode a txn) rest = true ∧
    (actTxn c.mode a txn = true → c.mode = .hw) ∧
    (c.mode = .hw → actScs a scs = true → actTxn c.mode a txn = true) := by
  cases hm : c.mode <;> cases a with
  | cs v =>
    cases v <;> cases scs <;> cases sclk <;> cases txn <;>
      simp [bracketed, hm, actScs, actSclk, actTxn] at h ⊢ <;> simp_all
  | _ => cases scs <;> cases txn <;> simp [bracketed, hm, actScs, actSclk, actTxn] at h ⊢ <;> simp_all

/-- The invariant, read as a proposition. -/
theorem State.inv_iff (s : State) : s.inv = true ↔
    s.cfg.wf = true ∧ Memory.wf s.cfg.resetByte s.cfg.fbSize s.fb = true ∧
    (s.spiHeld = true → s.cfg.mode = .hw ∧ s.inited = true) ∧ (s.txnOpen = true → s.cfg.mode = .hw) ∧
    (s.cfg.mode = .hw → s.scs = true → s.txnOpen = true) ∧
    (s.phase = .idle → s.pend = [] ∧ s.scs = false ∧ s.sclk = false ∧ s.txnOpen = false) ∧
    (s.phase = .conversation → s.pend ≠ [] ∧ bracketed s.cfg s.scs s.sclk s.txnOpen s.pend = true) := by
  unfold State.inv
  cases s.phase <;> cases s.cfg.mode <;> cases s.spiHeld <;> cases s.txnOpen <;> cases s.scs <;> cases s.inited <;>
    simp [and_assoc]

end Sys2Proof.Machine
end

