-- ==== Sys2Proof/Laws/Decode.lean ====
section
/-! SUPPORT. The fields of a host word and what the decoder can answer, said once. -/

namespace Sys2Proof

theorem hostOp_hostWord (op arg : BitVec 4) (x y : CoordField) : hostOp (hostWord op arg x y) = op := by
  unfold hostOp hostWord
  refine BitVec.eq_of_getLsbD_eq fun i hi => ?_
  rw [BitVec.getLsbD_extractLsb', BitVec.getLsbD_append, BitVec.getLsbD_append, BitVec.getLsbD_append,
    if_neg (by omega), if_neg (by omega), if_neg (by omega), show 36 + i - 16 - 16 - 4 = i by omega]
  simp [hi]

theorem hostArg_hostWord (op arg : BitVec 4) (x y : CoordField) : hostArg (hostWord op arg x y) = arg := by
  unfold hostArg hostWord
  refine BitVec.eq_of_getLsbD_eq fun i hi => ?_
  rw [BitVec.getLsbD_extractLsb', BitVec.getLsbD_append, BitVec.getLsbD_append, BitVec.getLsbD_append,
    if_neg (by omega), if_neg (by omega), if_pos (by omega), show 32 + i - 16 - 16 = i by omega]
  simp [hi]

theorem hostX_hostWord (op arg : BitVec 4) (x y : CoordField) : hostX (hostWord op arg x y) = x := by
  unfold hostX hostWord
  refine BitVec.eq_of_getLsbD_eq fun i hi => ?_
  rw [BitVec.getLsbD_extractLsb', BitVec.getLsbD_append, BitVec.getLsbD_append,
    if_neg (by omega), if_pos (by omega), show 16 + i - 16 = i by omega]
  simp [hi]

theorem hostY_hostWord (op arg : BitVec 4) (x y : CoordField) : hostY (hostWord op arg x y) = y := by
  unfold hostY hostWord
  refine BitVec.eq_of_getLsbD_eq fun i hi => ?_
  rw [BitVec.getLsbD_extractLsb', BitVec.getLsbD_append, if_pos (by omega)]
  simp [hi]

/-- A word is made of its four fields (R91). -/
theorem hostWord_of_fields (w : HostWord) : hostWord (hostOp w) (hostArg w) (hostX w) (hostY w) = w := by
  unfold hostOp hostArg hostX hostY hostWord
  refine BitVec.eq_of_getLsbD_eq fun i hi => ?_
  simp only [BitVec.getLsbD_append, BitVec.getLsbD_extractLsb']
  split
  · simp [*]
  · split
    · rw [decide_eq_true (by omega), Bool.true_and, show 16 + (i - 16) = i by omega]
    · split
      · rw [decide_eq_true (by omega), Bool.true_and, show 32 + (i - 16 - 16) = i by omega]
      · rw [decide_eq_true (by omega), Bool.true_and, show 36 + (i - 16 - 16 - 4) = i by omega]

/-- Masking a word masks its fields. -/
theorem hostWord_and (op op' arg arg' : BitVec 4) (x x' y y' : CoordField) :
    hostWord op arg x y &&& hostWord op' arg' x' y' = hostWord (op &&& op') (arg &&& arg') (x &&& x') (y &&& y') := by
  unfold hostWord
  refine BitVec.eq_of_getLsbD_eq fun i hi => ?_
  simp only [BitVec.getLsbD_and, BitVec.getLsbD_append]
  split
  · rfl
  · split
    · rfl
    · split <;> rfl

/-- Two words are equal exactly when their fields are. -/
theorem hostWord_inj (op op' arg arg' : BitVec 4) (x x' y y' : CoordField) :
    hostWord op arg x y = hostWord op' arg' x' y' ↔ op = op' ∧ arg = arg' ∧ x = x' ∧ y = y' := by
  refine ⟨fun h => ?_, by rintro ⟨rfl, rfl, rfl, rfl⟩; rfl⟩
  have h1 := congrArg hostOp h
  have h2 := congrArg hostArg h
  have h3 := congrArg hostX h
  have h4 := congrArg hostY h
  simp only [hostOp_hostWord, hostArg_hostWord, hostX_hostWord, hostY_hostWord] at h1 h2 h3 h4
  exact ⟨h1, h2, h3, h4⟩

/-- Everything the wire decoder can answer: the byte is the one the instruction encodes to, at the same place. -/
theorem decodeWire_encode {k : WireKind} {b : Byte} {i : Instr} (h : decodeWire k b = .ok i) : encode i = .wire k b := by
  have hb : ∀ n : Nat, b.toNat = n → b = BitVec.ofNat 8 n := fun n hn => by
    apply BitVec.eq_of_toNat_eq
    rw [BitVec.toNat_ofNat, Nat.mod_eq_of_lt (by omega), hn]
  cases k with
  | command =>
    simp only [decodeWire] at h
    split at h <;> cases h <;> rename_i hn <;> rw [hb _ hn] <;> rfl
  | lineAddr =>
    simp only [decodeWire] at h
    split at h <;> cases h
    rfl
  | data => cases h; rfl
  | zero =>
    simp only [decodeWire] at h
    split at h <;> cases h
    subst_vars
    rfl

end Sys2Proof
end

