-- ==== Sys2Proof/Laws/PerInstr.lean ====
section
/-! SUPPORT. A fact about every instruction as syntax: its encoding stands in the row of the tables that bears its mnemonic
(30_encoding.md R93 for the host commands, R99 to R103 for the wire items). -/

namespace Sys2Proof.Laws.EncodingRow

/-- The encoding of an instruction matches the row of its own mnemonic: for a host command the R93 row, for a wire item the
format's fixed bits. -/
def Statement (i : Instr) : Prop :=
  match encode i with
  | .host w => ∃ r ∈ hostRows, r.mnemonic = i.mnemonic ∧ r.matchesWord w = true
  | .wire .command b =>
      (i.mnemonic = "wire.CMD_WRITE" ∧ b &&& 0xFD#8 = 0x01#8) ∨ (i.mnemonic = "wire.CMD_CLEAR" ∧ b &&& 0xFD#8 = 0x04#8)
  | .wire .lineAddr _ => i.mnemonic = "wire.LINE_ADDR"
  | .wire .data _ => i.mnemonic = "wire.DATA"
  | .wire .zero b => i.mnemonic = "wire.ZERO" ∧ b = 0x00#8

theorem init : Statement .init := ⟨⟨"INIT", 0xFFFFFFFFFF#40, 0x1000000000#40⟩, by decide, rfl, by decide⟩

theorem shutdown : Statement .shutdown := ⟨⟨"SHUTDOWN", 0xFFFFFFFFFF#40, 0x2000000000#40⟩, by decide, rfl, by decide⟩

theorem setRot (r : RotState) : Statement (.setRot r) :=
  ⟨⟨"SETROT", 0xFCFFFFFFFF#40, 0x3000000000#40⟩, by decide, rfl, by revert r; decide⟩

/-- A mask over `op` and `arg` only, as SETPIXEL's and GETPIXEL's are. -/
theorem and_highByte (op arg : BitVec 4) (x y : CoordField) (mo ma : BitVec 4) :
    (hostWord op arg x y) &&& (hostWord mo ma 0#16 0#16) = hostWord (op &&& mo) (arg &&& ma) 0#16 0#16 := by
  rw [hostWord_and]
  simp

theorem setPixel (x y : CoordField) (v : Bool) : Statement (.setPixel x y v) := by
  refine ⟨⟨"SETPIXEL", 0xFE00000000#40, 0x4000000000#40⟩, by decide, rfl, ?_⟩
  have h := and_highByte 0x4#4 (0#3 ++ BitVec.ofBool v) x y 0xF#4 0xE#4
  have e : (0#3 ++ BitVec.ofBool v) &&& 0xE#4 = 0#4 := by cases v <;> decide
  rw [e] at h
  exact beq_iff_eq.2 (h.trans (by decide))

theorem getPixel (x y : CoordField) : Statement (.getPixel x y) :=
  ⟨⟨"GETPIXEL", 0xFF00000000#40, 0x5000000000#40⟩, by decide, rfl,
    beq_iff_eq.2 ((and_highByte 0x5#4 0#4 x y 0xF#4 0xF#4).trans (by decide))⟩

theorem clearBuf : Statement .clearBuf := ⟨⟨"CLEARBUF", 0xFFFFFFFFFF#40, 0x6000000000#40⟩, by decide, rfl, by decide⟩

theorem refresh : Statement .refresh := ⟨⟨"REFRESH", 0xFFFFFFFFFF#40, 0x7000000000#40⟩, by decide, rfl, by decide⟩

theorem clearDisp : Statement .clearDisp := ⟨⟨"CLEARDISP", 0xFFFFFFFFFF#40, 0x8000000000#40⟩, by decide, rfl, by decide⟩

theorem vcomTog : Statement .vcomTog := ⟨⟨"VCOMTOG", 0xFFFFFFFFFF#40, 0x9000000000#40⟩, by decide, rfl, by decide⟩

theorem getDim : Statement .getDim := ⟨⟨"GETDIM", 0xFFFFFFFFFF#40, 0xA000000000#40⟩, by decide, rfl, by decide⟩

theorem rdStat : Statement .rdStat := ⟨⟨"RDSTAT", 0xFFFFFFFFFF#40, 0xB000000000#40⟩, by decide, rfl, by decide⟩

theorem wireCmdWrite (v : Bool) : Statement (.wireCmdWrite v) := .inl ⟨rfl, by revert v; decide⟩

theorem wireCmdClear (v : Bool) : Statement (.wireCmdClear v) := .inr ⟨rfl, by revert v; decide⟩

theorem wireLineAddr (a : Byte) : Statement (.wireLineAddr a) := rfl

theorem wireData (d : Byte) : Statement (.wireData d) := rfl

theorem wireZero : Statement .wireZero := ⟨rfl, rfl⟩

end Sys2Proof.Laws.EncodingRow
end

