-- ==== Sys2Proof/Laws/Step.lean ====
section
/-! SUPPORT. What a step can do, said once: the inversion of the sequencer's turn and of `step`. -/

namespace Sys2Proof.Machine

variable {s t : State}

/-- The step under RST (R280). -/
theorem step_reset (h : s.rstLevel = true) : step s = .next s.tick.applyReset := by
  simp [step, State.turn, h]

/-- The step with PHASE = IDLE and nothing presented. -/
theorem step_idle (hr : s.rstLevel = false) (hp : s.phase = .idle) (hc : s.cmds = []) : step s = .next s.tick := by
  simp [step, State.turn, hr, hp, State.acceptCommand, hc]

/-- The step that accepts a legal word (R34). -/
theorem step_command {w : HostWord} {rest : List HostWord} {i : Instr} (hr : s.rstLevel = false) (hp : s.phase = .idle)
    (hc : s.cmds = w :: rest) (hd : decode (.host w) = .ok i) : step s = exec i { s.tick with cmds := rest } := by
  simp [step, State.turn, hr, hp, State.acceptCommand, hc, hd]

/-- The step that accepts an illegal word (R252). -/
theorem step_illegal {w : HostWord} {rest : List HostWord} {e : DecodeError} (hr : s.rstLevel = false)
    (hp : s.phase = .idle) (hc : s.cmds = w :: rest) (hd : decode (.host w) = .error e) :
    step s = .next (State.raise { s.tick with cmds := rest } .illegalCommand) := by
  simp [step, State.turn, hr, hp, State.acceptCommand, hc, hd]

/-- The step that performs an action (R40). -/
theorem step_action {a : Action} {rest : List Item} (hr : s.rstLevel = false) (hp : s.phase = .conversation)
    (hl : s.pend = .act a :: rest) :
    step s = .next (State.settle (State.perform { s.tick with pend := rest } a)) := by
  have h : s.tick.pend = .act a :: rest := hl
  simp only [step, State.turn, hr, hp, State.continueConversation, h, State.advance_act h]
  rfl

/-- The step that gives a byte to the byte engine. -/
theorem step_byte {k : WireKind} {b : Byte} {rest : List Item} {i : Instr} (hr : s.rstLevel = false)
    (hp : s.phase = .conversation) (hl : s.pend = .byte k b :: rest) (hd : decode (.wire k b) = .ok i) :
    step s = exec i { s.tick with pend := rest } := by
  simp [step, State.turn, hr, hp, State.continueConversation, hl, hd]

/-- Everything a step that answers a next state can have done. -/
theorem step_cases (h : step s = .next t) :
    (s.rstLevel = true ∧ t = s.tick.applyReset) ∨
    (s.rstLevel = false ∧ s.phase = .idle ∧ s.cmds = [] ∧ t = s.tick) ∨
    (∃ w rest i, s.rstLevel = false ∧ s.phase = .idle ∧ s.cmds = w :: rest ∧ decode (.host w) = .ok i ∧
      exec i { s.tick with cmds := rest } = .next t) ∨
    (∃ w rest e, s.rstLevel = false ∧ s.phase = .idle ∧ s.cmds = w :: rest ∧ decode (.host w) = .error e ∧
      t = State.raise { s.tick with cmds := rest } .illegalCommand) ∨
    (s.rstLevel = false ∧ s.phase = .conversation ∧ s.pend = [] ∧ t = s.tick.settle) ∨
    (∃ a rest, s.rstLevel = false ∧ s.phase = .conversation ∧ s.pend = .act a :: rest ∧
      t = State.settle (State.perform { s.tick with pend := rest } a)) ∨
    (∃ k b rest i, s.rstLevel = false ∧ s.phase = .conversation ∧ s.pend = .byte k b :: rest ∧
      decode (.wire k b) = .ok i ∧ exec i { s.tick with pend := rest } = .next t) := by
  cases hr : s.rstLevel with
  | true =>
    rw [step_reset hr] at h
    cases h
    exact .inl ⟨rfl, rfl⟩
  | false =>
    cases hp : s.phase with
    | idle =>
      cases hc : s.cmds with
      | nil =>
        rw [step_idle hr hp hc] at h
        cases h
        exact .inr (.inl ⟨rfl, rfl, rfl, rfl⟩)
      | cons w rest =>
        cases hd : decode (.host w) with
        | ok i =>
          rw [step_command hr hp hc hd] at h
          exact .inr (.inr (.inl ⟨w, rest, i, rfl, rfl, rfl, hd, h⟩))
        | error e =>
          rw [step_illegal hr hp hc hd] at h
          cases h
          exact .inr (.inr (.inr (.inl ⟨w, rest, e, rfl, rfl, rfl, hd, rfl⟩)))
    | conversation =>
      cases hl : s.pend with
      | nil =>
        simp only [step, State.turn, hr, hp, State.continueConversation] at h
        rw [show s.tick.pend = [] from hl] at h
        cases h
        exact .inr (.inr (.inr (.inr (.inl ⟨rfl, rfl, rfl, rfl⟩))))
      | cons x rest =>
        cases x with
        | act a =>
          rw [step_action hr hp hl] at h
          cases h
          exact .inr (.inr (.inr (.inr (.inr (.inl ⟨a, rest, rfl, rfl, rfl, rfl⟩)))))
        | byte k b =>
          cases hd : decode (.wire k b) with
          | ok i =>
            rw [step_byte hr hp hl hd] at h
            exact .inr (.inr (.inr (.inr (.inr (.inr ⟨k, b, rest, i, rfl, rfl, rfl, hd, h⟩)))))
          | error e =>
            simp [step, State.turn, hr, hp, State.continueConversation, hl, hd] at h

end Sys2Proof.Machine
end

