-- ==== Sys2Proof/Tests/Slice0.lean ====
section
/-! SUPPORT. Tests of the model against 95_test_vectors.md (each names its vector), the refusals of WellFormed, and a witness for
the hypotheses of every statement of Certificates/Slice0/Obligations.lean that has any. -/

namespace Sys2Proof.Tests

open Sys2Proof.Machine

/-! ### Small states -/

/-- The 16×2 instance in HW mode. -/
def hwBoard : Config := { Config.board with mode := .hw }

/-- The instance after INIT, with the peripheral held in HW mode and a given buffer listed. -/
def ready (c : Config) (fb : List Host.Cell) : State :=
  { State.resetOf c with inited := true, spiHeld := modeBit c.mode, fb := fb }

/-- SW mode, FB = FF FF FF FF. -/
def white : State := ready Config.board [(0, 0xFF#8), (1, 0xFF#8), (2, 0xFF#8), (3, 0xFF#8)]

/-- SW mode, FB = FE FF FF FD. -/
def dotted : State := ready Config.board [(0, 0xFE#8), (1, 0xFF#8), (2, 0xFF#8), (3, 0xFD#8)]

/-- HW mode, INITED = 1, the peripheral held. -/
def hwReady : State := ready hwBoard []

/-- HW mode, INITED = 1, the peripheral released. -/
def released : State := { hwReady with spiHeld := false }

/-- The state one step after a host word is presented. -/
def after (s : State) (w : HostWord) : Option State :=
  match step { s with cmds := [w] } with
  | .next t => some t
  | _ => none

/-- An open conversation with a byte at the head of PEND. -/
def sending (c : Config) (k : WireKind) (b : Byte) : State := (ready c []).withCode (.wire k b)

/-- The state one step later. -/
def stepped (s : State) : Option State :=
  match step s with
  | .next t => some t
  | _ => none

/-- The buffer's four bytes. -/
def bytes (s : State) : List Byte := (List.range 4).map s.byteAt

/-! ### WellFormed refuses (R5, R6, R101) -/

theorem test_wf_board : Config.board.wf = true := by decide
theorem test_wf_widthNotMultipleOf8 : Config.wf { Config.board with width := 15 } = false := by decide
theorem test_wf_widthZero : Config.wf { Config.board with width := 0, fbReset := [] } = false := by decide
theorem test_wf_widthTooLarge :
    Config.wf { Config.board with width := 32768, height := 1, fbReset := List.replicate 4096 0#8 } = false := rfl
theorem test_wf_heightZero : Config.wf { Config.board with height := 0, fbReset := [] } = false := by decide
theorem test_wf_heightTooLarge :
    Config.wf { Config.board with width := 8, height := 256, fbReset := List.replicate 256 0#8 } = false := rfl
theorem test_wf_resetLength : Config.wf { Config.board with fbReset := [0x12#8, 0x34#8, 0x56#8] } = false := by decide
theorem test_wf_clockRateZero : Config.wf { Config.board with fSclkHz := 0 } = false := by decide
theorem test_wf_pulseZero : Config.wf { Config.board with tPulseMin := 0 } = false := by decide
theorem test_wf_vcomPeriodZero : Config.wf { Config.board with tVcomMax := 0 } = false := by decide
theorem test_wf_lineZero : (Instr.wireLineAddr 0#8).wf Config.board = false := by decide
theorem test_wf_linePastEnd : (Instr.wireLineAddr 3#8).wf Config.board = false := by decide

/-! ### Decoding (E1 to E25 of Part 3; R99 to R103) -/

theorem test_decode_init : decode (.host 0x1000000000#40) = .ok .init := rfl
theorem test_decode_shutdown : decode (.host 0x2000000000#40) = .ok .shutdown := rfl
theorem test_decode_setRot : decode (.host 0x3300000000#40) = .ok (.setRot 3#2) := rfl
theorem test_decode_setPixel : decode (.host 0x41FFFF0000#40) = .ok (.setPixel 0xFFFF#16 0#16 true) := rfl
theorem test_decode_setPixelZero : decode (.host 0x4000090001#40) = .ok (.setPixel 9#16 1#16 false) := rfl
theorem test_decode_getPixel : decode (.host 0x5000008000#40) = .ok (.getPixel 0#16 0x8000#16) := rfl
theorem test_decode_clearBuf : decode (.host 0x6000000000#40) = .ok .clearBuf := rfl
theorem test_decode_refresh : decode (.host 0x7000000000#40) = .ok .refresh := rfl
theorem test_decode_clearDisp : decode (.host 0x8000000000#40) = .ok .clearDisp := rfl
theorem test_decode_vcomTog : decode (.host 0x9000000000#40) = .ok .vcomTog := rfl
theorem test_decode_getDim : decode (.host 0xA000000000#40) = .ok .getDim := rfl
theorem test_decode_rdStat : decode (.host 0xB000000000#40) = .ok .rdStat := rfl
theorem test_decode_wireCmdWrite : decode (.wire .command 0x03#8) = .ok (.wireCmdWrite true) := rfl
theorem test_decode_wireCmdClear : decode (.wire .command 0x06#8) = .ok (.wireCmdClear true) := rfl
theorem test_decode_wireLineAddr : decode (.wire .lineAddr 0x60#8) = .ok (.wireLineAddr 0x60#8) := rfl
theorem test_decode_wireData : decode (.wire .data 0x01#8) = .ok (.wireData 0x01#8) := rfl
theorem test_decode_wireZero : decode (.wire .zero 0x00#8) = .ok .wireZero := rfl

theorem test_decode_reserved :
    [0x0000000000#40, 0xC000000000#40, 0xFFFFFFFFFF#40].map (fun w => decode (.host w))
      = [.error .reservedOpcode, .error .reservedOpcode, .error .reservedOpcode] := rfl
theorem test_decode_mustBeZero :
    [0x1000000001#40, 0x7000000001#40, 0x3400000000#40, 0x3000010000#40, 0x4200000000#40, 0x5100000000#40, 0xA000010000#40,
      0xB100000000#40].all (fun w => decide (decodeHost w = .error .mustBeZeroBit)) = true := by decide
theorem test_decode_wireRefusals :
    decode (.wire .command 0x07#8) = .error .unsentCommandByte ∧ decode (.wire .lineAddr 0x00#8) = .error .lineAddressZero ∧
    decode (.wire .zero 0x01#8) = .error .nonzeroZeroByte := ⟨rfl, rfl, rfl⟩

/-! ### The host's entry -/

theorem test_tableWord_host : decodeTableWord 40 0x3300000000 = some (.setRot 3#2) := rfl
theorem test_tableWord_illegal : decodeTableWord 40 0x7000000001 = none := rfl
theorem test_tableWord_bareBytes :
    decodeTableWord 8 0x01 = some (.wireCmdWrite false) ∧ decodeTableWord 8 0x06 = some (.wireCmdClear true) ∧
    decodeTableWord 8 0x5A = some (.wireData 0x5A#8) ∧ decodeTableWord 8 0x00 = some .wireZero := ⟨rfl, rfl, rfl, rfl⟩
/-- S1 of Part 6, placed by `withFetchWord`: RDSTAT just after reset. -/
theorem test_fetch_host : (stepped (State.reset.withFetchWord 40 0xB000000000)).map (·.rsp) = some 0x000000008#34 := by decide
theorem test_fetch_wire :
    (stepped (State.reset.withFetchWord 8 0x5A)).map (·.trace) = some [.pins ⟨true, false, false⟩] := by decide

/-! ### One step of each instruction -/

/-- S4 of Part 6. -/
theorem test_init_sw : (after State.reset 0x1000000000#40).map (fun t => (t.rsp, t.inited, t.vcom, bytes t))
    = some (0x000000001#34, true, true, [0x12#8, 0x34#8, 0x56#8, 0x78#8]) := by decide
/-- S6 of Part 6: INIT_OK = 0. -/
theorem test_init_hwFails :
    (after { State.resetOf hwBoard with initOkIn := [false] } 0x1000000000#40).map (fun t => (t.rsp, t.inited, t.spiHeld, t.fault))
      = some (0x000000000#34, false, false, 0#2) := by decide
/-- S10 of Part 6. -/
theorem test_shutdown_hw : (after hwReady 0x2000000000#40).map (fun t => (t.rsp, t.spiHeld)) = some (0#34, false) := by decide
/-- S13 of Part 6. -/
theorem test_shutdown_notInitialized :
    (after State.reset 0x2000000000#40).map (fun t => (t.rsp, t.fault)) = some (0x200000000#34, 2#2) := by decide
/-- D2 of Part 2. -/
theorem test_setRot : (after white 0x3100000000#40).map (fun t => (t.rsp, t.rot)) = some (0#34, 1#2) := by decide
/-- A18 of Part 2: SETPIXEL 1, 3, 0 under rotation 3. -/
theorem test_setPixel_rot3 : (after { white with rot := 3#2 } 0x4000010003#40).map (fun t => (t.rsp, bytes t))
    = some (0#34, [0xF7#8, 0xFF#8, 0xFF#8, 0xFF#8]) := by decide
/-- A9 of Part 2: a negative coordinate. -/
theorem test_setPixel_negative : (after white 0x40FFFF0000#40).map (fun t => (t.rsp, bytes t))
    = some (0#34, [0xFF#8, 0xFF#8, 0xFF#8, 0xFF#8]) := by decide
/-- G2 of Part 2. -/
theorem test_getPixel_set : (after dotted 0x5000010000#40).map (·.rsp) = some 0x000000001#34 := by decide
/-- G9 of Part 2: GETPIXEL 1, 6 under rotation 1 is bit index 25. -/
theorem test_getPixel_rot1 : (after { dotted with rot := 1#2 } 0x5000010006#40).map (·.rsp) = some 0#34 := by decide
/-- CLEARBUF of Part 2. -/
theorem test_clearBuf : (after (ready Config.board []) 0x6000000000#40).map (fun t => (t.rsp, bytes t, t.trace))
    = some (0#34, [0xFF#8, 0xFF#8, 0xFF#8, 0xFF#8], [.response 0#34]) := by decide
/-- T2 of Part 5. -/
theorem test_refresh_wire : (after { dotted with vcom := false } 0x7000000000#40).map (fun t => wireBytes t.pend)
    = some [0x01#8, 0x01#8, 0xFE#8, 0xFF#8, 0x00#8, 0x02#8, 0xFF#8, 0xFD#8, 0x00#8, 0x00#8] := by decide
/-- F6 of Part 7. -/
theorem test_refresh_released : (after released 0x7000000000#40).map (fun t => (t.rsp, t.fault, t.phase, t.scs))
    = some (0x300000000#34, 3#2, .idle, false) := by decide
/-- T5 of Part 5: the wire, and 56 actions. -/
theorem test_clearDisp_wire :
    (after (ready Config.board []) 0x8000000000#40).map (fun t => (wireBytes t.pend, (pendActions t.pend).length))
      = some ([0x06#8, 0x00#8], 56) := by decide
/-- F7 of Part 7. -/
theorem test_clearDisp_released : (after released 0x8000000000#40).map (fun t => (t.rsp, bytes t))
    = some (0x300000000#34, [0x12#8, 0x34#8, 0x56#8, 0x78#8]) := by decide
/-- T7 of Part 5: the wire, and 55 actions. -/
theorem test_vcomTog_wire :
    (after { white with vcom := false } 0x9000000000#40).map (fun t => (wireBytes t.pend, (pendActions t.pend).length))
      = some ([0x01#8, 0x00#8], 55) := by decide
/-- F9 of Part 7: NotInitialized wins. -/
theorem test_vcomTog_notInitialized :
    (after (State.resetOf hwBoard) 0x9000000000#40).map (fun t => (t.rsp, t.fault)) = some (0x200000000#34, 2#2) := by decide
/-- D3 of Part 2. -/
theorem test_getDim_rot1 : (after { white with rot := 1#2 } 0xA000000000#40).map (·.rsp) = some 0x000020010#34 := by decide
/-- S8 of Part 6. -/
theorem test_rdStat : (after { white with rot := 2#2 } 0xB000000000#40).map (·.rsp) = some 0x000000029#34 := by decide
/-- F10 of Part 7, in SW mode after INIT: FAULT = 3 is reported and kept. -/
theorem test_rdStat_fault :
    (after { white with fault := 3#2 } 0xB000000000#40).map (fun t => (t.rsp, t.fault)) = some (0x0000000C9#34, 3#2) := by decide
/-- F5 of Part 7: an illegal word; the first code is kept. -/
theorem test_illegal_sticky :
    (after { white with fault := 2#2 } 0x0000000000#40).map (fun t => (t.rsp, t.fault)) = some (0x100000000#34, 2#2) := by decide
/-- B1 of Part 4: the actions of XFER(0xA5). -/
theorem test_xfer_A5 : xfer 0xA5#8 = [true, false, true, false, false, true, false, true].flatMap
    (fun v => [Action.clk false, .dat v, .clk true]) ++ [.clk false] := by decide
theorem test_wireCmdWrite :
    (stepped (sending Config.board .command 0x03#8)).map (fun t => (t.sclk, t.pend.length)) = some (false, 26) := by decide
theorem test_wireCmdClear :
    (stepped (sending hwBoard .command 0x06#8)).map (fun t => (t.trace, t.pend.length))
      = some ([.pins ⟨true, false, false⟩], 27) := by decide
theorem test_wireLineAddr :
    (stepped (sending Config.board .lineAddr 0x01#8)).map (fun t => t.pend.take 2)
      = some [.act (.dat true), .act (.clk true)] := by decide
theorem test_wireData :
    (stepped (sending Config.board .data 0xFE#8)).map (fun t => t.pend.take 2)
      = some [.act (.dat false), .act (.clk true)] := by decide
theorem test_wireZero :
    (stepped (sending Config.board .zero 0x00#8)).map (fun t => t.pend.take 2)
      = some [.act (.dat false), .act (.clk true)] := by decide
/-- X1 of Part 7: reset in the middle of a byte. -/
theorem test_reset_midConversation :
    (stepped { white with
        phase := .conversation, pend := [.act (.clk false)], scs := true, sclk := true, vcom := false, rstIn := [true] }).map
      (fun t => (t.pins, t.vcom, bytes t, t.trace))
      = some (⟨false, false, false⟩, true, [0x12#8, 0x34#8, 0x56#8, 0x78#8], [.pins ⟨false, false, false⟩]) := by decide

/-! ### The memory's canonical form -/

theorem test_memory_writeUnlistedValue : Memory.write Config.board.resetByte [(2, 0xFF#8)] 2 0x56#8 = [] := by decide
theorem test_memory_writeKeepsOrder :
    Memory.write Config.board.resetByte [(0, 0xFF#8), (3, 0xFF#8)] 1 0x00#8 = [(0, 0xFF#8), (1, 0x00#8), (3, 0xFF#8)] := by decide

/-! ### Witnesses: for every statement with hypotheses, a state and operands that meet them together, clause by clause -/

/-- `white` with a host word presented. -/
def asked (w : HostWord) : State := { white with cmds := [w] }

/-- A conversation whose last action is left. -/
def closing : State := { white with phase := .conversation, pend := [.act (.cs false)], scs := true }

/-- A HW-mode conversation whose last action is left. -/
def leaving : State := { hwReady with phase := .conversation, pend := [.act .txnEnd], txnOpen := true }

/-- A HW-mode conversation before its first action. -/
def opening : State := { hwReady with phase := .conversation, pend := openBracket hwBoard }

/-- R14: TXN_BEGIN is a pin action, after which the driven levels are seen. -/
theorem test_txnBegin_seen : (stepped opening).map (·.trace) = some [.txnBegin, .pins ⟨false, false, false⟩] := by decide
/-- R14: after TXN_END the levels of SCLK and SI are free. -/
theorem test_txnEnd_seen : (stepped leaving).map (·.trace)
    = some [.txnEnd, .pins ⟨false, Config.freeSclk 1, Config.freeSi 1⟩, .response 0#34] := rfl

theorem witness_DecodeOfEncode :
    (Instr.wireLineAddr 1#8).wf Config.board = true ∧ (Instr.wireLineAddr 2#8).wf Config.board = true ∧
    (Instr.setPixel 0x8000#16 0x7FFF#16 true).wf Config.board = true := by decide
theorem witness_EncodeOfDecode :
    decode (.host 0x507FFF7FFF#40) = .ok (.getPixel 0x7FFF#16 0x7FFF#16) ∧ decode (.wire .lineAddr 0xFF#8) = .ok (.wireLineAddr 0xFF#8) :=
  ⟨rfl, rfl⟩
theorem witness_DecoderIsTheMatchMaskTable :
    (∃ r ∈ hostRows, r.matchesWord 0x3300000000#40 = true) ∧ (∀ r ∈ hostRows, r.matchesWord 0xC000000000#40 = false) ∧
    (∀ r ∈ hostRows, r.matchesWord 0x0FFFFFFFFF#40 = false) ∧ decode (.host 0x3300000000#40) = .ok (.setRot 3#2) ∧
    decode (.host 0x41FFFFFFFF#40) = .ok (.setPixel 0xFFFF#16 0xFFFF#16 true) ∧
    decode (.host 0x5000008000#40) = .ok (.getPixel 0#16 0x8000#16) := ⟨by decide, by decide, by decide, rfl, rfl, rfl⟩
theorem witness_IllegalWordRaisesIllegalCommand :
    illegalWord 0xFFFFFFFFFF#40 = true ∧ illegalWord 0xB000000001#40 = true ∧ (asked 0xFFFFFFFFFF#40).rstLevel = false ∧
    (asked 0xFFFFFFFFFF#40).phase = .idle ∧ (asked 0xFFFFFFFFFF#40).cmds = [0xFFFFFFFFFF#40] := by decide
/-- For CommandByteCarriesVcom and ConversationCommandsLoadTheirList. -/
theorem witness_transportReady : white.transportReady = true ∧ hwReady.transportReady = true := by decide
theorem witness_LogicalDimensionsFollowRotation :
    Config.board.wf = true ∧ (2#2 = 0#2 ∨ 2#2 = 2#2) ∧ (3#2 = 1#2 ∨ 3#2 = 3#2) := by decide
/-- For RotationTransformIsTheTable, RotationIsABijection and PixelLocationStaysInTheBuffer: the last pixel of each rotation. -/
theorem witness_lastPixel :
    Config.board.wf = true ∧ 15 < logicalWidth Config.board 0#2 ∧ 1 < logicalHeight Config.board 0#2 ∧
    1 < logicalWidth Config.board 1#2 ∧ 15 < logicalHeight Config.board 1#2 ∧ 15 < logicalWidth Config.board 2#2 ∧
    1 < logicalHeight Config.board 2#2 ∧ 1 < logicalWidth Config.board 3#2 ∧ 15 < logicalHeight Config.board 3#2 ∧
    15 < Config.board.width ∧ 1 < Config.board.height := by decide
/-- Both sides of the check, at its bounds. -/
theorem witness_RangeCheckIsSignedAndLogical :
    (pixelLoc Config.board 0#2 15#16 1#16).isSome = true ∧ (pixelLoc Config.board 0#2 16#16 1#16).isSome = false ∧
    (pixelLoc Config.board 0#2 0xFFFF#16 0#16).isSome = false ∧ (pixelLoc Config.board 1#2 1#16 15#16).isSome = true := by decide
/-- For SetThenGetReturnsTheValue, ClearedBufferReadsInactive, PixelIsFoundUnderEveryRotation, SetPixelLeavesOtherPixels. -/
theorem witness_inRangePixels :
    white.cfg.wf = true ∧ white.inited = true ∧ (pixelLoc white.cfg white.rot 15#16 1#16).isSome = true ∧
    (pixelLoc white.cfg white.rot 0#16 0#16).isSome = true ∧ ((0#16, 0#16) : CoordField × CoordField) ≠ (15#16, 1#16) ∧
    (pixelLoc white.cfg 3#2 1#16 15#16).isSome = true := by decide
/-- For the second clause of RangeCheckIsSignedAndLogical, and the out-of-range clauses of SETPIXEL and GETPIXEL. -/
theorem witness_outOfRangePixels :
    white.inited = true ∧ white.cfg.wf = true ∧ pixelLoc white.cfg white.rot 16#16 0#16 = none ∧
    pixelLoc white.cfg white.rot 0#16 2#16 = none ∧ (pixelLoc white.cfg white.rot 16#16 0#16).isSome = false ∧
    (pixelLoc white.cfg white.rot 0x8000#16 0#16).isSome = false := by decide
theorem witness_PreconditionsRaiseInOrder :
    (Instr.getDim.needsInit = true ∧ State.reset.inited = false) ∧
    (Instr.clearDisp.opensConversation = true ∧ released.inited = true ∧ released.cfg.mode = .hw ∧ released.spiHeld = false) ∧
    (Instr.rdStat.isHostCommand = true ∧ Instr.rdStat.needsInit = false ∧ Instr.rdStat.opensConversation = false) ∧
    (Instr.refresh.isHostCommand = true ∧ hwReady.inited = true ∧ hwReady.spiHeld = true) := by
  decide
/-- For SetRotWritesRot, GetDimReportsLogicalDimensions, ClearBufSetsEveryByte, ShutdownReleasesThePeripheral, and the
un-initialised clauses of SETPIXEL and GETPIXEL. -/
theorem witness_initialised :
    State.reset.inited = false ∧ State.reset.cfg.wf = true ∧ white.inited = true ∧ white.cfg.wf = true ∧ white.cfg.mode = .sw ∧ hwReady.inited = true ∧ hwReady.cfg.mode = .hw ∧
    3 < white.cfg.fbSize := by decide
/-- For SetPixelWritesOneBit and GetPixelReadsOneBit: the first and the last bit of the buffer. -/
theorem witness_pixelBits :
    white.inited = true ∧ white.cfg.wf = true ∧ pixelLoc white.cfg white.rot 0#16 0#16 = some (0, 0) ∧
    pixelLoc white.cfg white.rot 15#16 1#16 = some (3, 7) := by decide
theorem witness_InitStartsASession :
    (white.cfg.mode = .sw ∧ white.scs = false ∧ white.sclk = false) ∧ (hwReady.cfg.mode = .hw ∧ hwReady.scs = false) ∧
    (∃ rest, ({ hwReady with initOkIn := [true] } : State).initOkIn = true :: rest) ∧
    (∃ rest, ({ hwReady with initOkIn := [false] } : State).initOkIn = false :: rest) :=
  ⟨⟨rfl, rfl, rfl⟩, ⟨rfl, rfl⟩, ⟨[], rfl⟩, ⟨[], rfl⟩⟩
theorem witness_InitDrawsAFreeAnswer : hwReady.cfg.mode = .hw ∧ hwReady.initOkIn = [] := by decide
theorem witness_WireItemsEnterTheByteEngine :
    (sending Config.board .data 0#8).phase = .conversation ∧ (sending Config.board .data 0#8).scs = true ∧
    (sending Config.board .data 0#8).cfg.mode = .sw ∧ (sending hwBoard .data 0#8).phase = .conversation ∧
    (sending hwBoard .data 0#8).scs = true ∧ (sending hwBoard .data 0#8).txnOpen = true := by decide
theorem witness_WireItemOutsideConversationFaults :
    Instr.wireZero.isHostCommand = false ∧ white.phase = .idle ∧ opening.scs = false ∧
    (opening.cfg.mode = .hw ∧ opening.txnOpen = false) := by decide
theorem witness_ReadCommandsFrame :
    (∃ t, exec .getDim white = .next t) ∧ (∃ t, exec .rdStat State.reset = .next t) ∧
    (∃ t, exec (.getPixel 15#16 1#16) white = .next t) ∧ (∃ t, exec (.getPixel 16#16 1#16) State.reset = .next t) :=
  ⟨⟨_, rfl⟩, ⟨_, rfl⟩, ⟨_, rfl⟩, ⟨_, rfl⟩⟩
theorem witness_ControlCommandsFrame :
    (∃ t, exec .init hwReady = .next t) ∧ (∃ t, exec .shutdown hwReady = .next t) ∧ (∃ t, exec (.setRot 3#2) white = .next t) :=
  ⟨⟨_, rfl⟩, ⟨_, rfl⟩, ⟨_, rfl⟩⟩
theorem witness_StoringCommandsFrame :
    (∃ t, exec (.setPixel 15#16 1#16 false) white = .next t) ∧ pixelLoc white.cfg white.rot 15#16 1#16 = some (3, 7) ∧
    (∃ t, exec (.setPixel 16#16 1#16 false) white = .next t) ∧ pixelLoc white.cfg white.rot 16#16 1#16 = none ∧
    (∃ t, exec (.setPixel 0#16 0#16 false) State.reset = .next t) ∧ State.reset.inited = false ∧
    (∃ t, exec .clearBuf white = .next t) ∧ (∃ t, exec .clearBuf State.reset = .next t) ∧ white.cfg.fbSize ≤ 4 :=
  ⟨⟨_, rfl⟩, by decide, ⟨_, rfl⟩, by decide, ⟨_, rfl⟩, rfl, ⟨_, rfl⟩, ⟨_, rfl⟩, by decide⟩
theorem witness_ConversationCommandsFrame :
    Instr.refresh.opensConversation = true ∧ (∃ t, exec .refresh white = .next t) ∧ (∃ t, exec .refresh released = .next t) :=
  ⟨rfl, ⟨_, rfl⟩, ⟨_, rfl⟩⟩
theorem witness_WireItemsFrame :
    Instr.wireZero.isHostCommand = false ∧ ∃ t, exec .wireZero (sending Config.board .zero 0#8) = .next t := ⟨rfl, ⟨_, rfl⟩⟩
theorem witness_StepRunsTheDecodedInstruction :
    ((asked 0xB000000000#40).rstLevel = false ∧ (asked 0xB000000000#40).phase = .idle ∧
      (asked 0xB000000000#40).cmds = [0xB000000000#40] ∧ decode (.host 0xB000000000#40) = .ok .rdStat) ∧
    ((sending hwBoard .data 0x5A#8).rstLevel = false ∧ (sending hwBoard .data 0x5A#8).phase = .conversation ∧
      (sending hwBoard .data 0x5A#8).pend = .byte .data 0x5A#8 :: closeBracket hwBoard ∧
      decode (.wire .data 0x5A#8) = .ok (.wireData 0x5A#8)) := ⟨⟨rfl, rfl, rfl, rfl⟩, ⟨rfl, rfl, rfl, rfl⟩⟩
theorem witness_StepPerformsTheHeadAction :
    (opening.rstLevel = false ∧ opening.phase = .conversation ∧
      opening.pend = .act .txnBegin :: [.act (.cs true), .act (.delay 6)] ∧ opening.cfg.mode = .hw) ∧
    (closing.rstLevel = false ∧ closing.phase = .conversation ∧ closing.pend = .act (.cs false) :: []) :=
  ⟨⟨rfl, rfl, rfl, rfl⟩, ⟨rfl, rfl, rfl⟩⟩
theorem witness_CommandsAreHeldWhileOpen :
    closing.phase = .conversation ∧ closing.rstLevel = false ∧ ∃ t, step closing = .next t := ⟨rfl, rfl, ⟨_, rfl⟩⟩
theorem witness_OneResponsePerCommand :
    (∃ t, step { closing with rstIn := [true] } = .next t) ∧ (∃ t, step white = .next t) ∧
    (∃ t, step (asked 0x7000000000#40) = .next t) ∧ (∃ t, step (asked 0xB000000000#40) = .next t) ∧
    (∃ t, step closing = .next t) ∧ (∃ t, step opening = .next t) :=
  ⟨⟨_, rfl⟩, ⟨_, rfl⟩, ⟨_, rfl⟩, ⟨_, rfl⟩, ⟨_, rfl⟩, ⟨_, rfl⟩⟩
theorem witness_ByteIsClockedOutLsbFirst :
    let s := sending hwBoard .data 0x5A#8
    s.phase = .conversation ∧ s.scs = true ∧ s.sclk = false ∧ s.txnOpen = true ∧
    s.pend = .byte .data 0x5A#8 :: closeBracket hwBoard ∧ closeBracket hwBoard ≠ [] ∧
    decode (.wire .data 0x5A#8) = .ok (.wireData 0x5A#8) ∧ s.rstLowFor 25 = true ∧
    (sending Config.board .data 0x5A#8).cfg.mode = .sw :=
  ⟨rfl, rfl, rfl, rfl, rfl, by decide, rfl, rfl, rfl⟩
theorem witness_ResetTable :
    Config.board.wf = true ∧ 3 < Config.board.fbSize ∧ Config.board.mode = .sw ∧ Instr.rdStat.needsInit = false ∧
    Instr.shutdown.needsInit = true := by decide
theorem witness_ResetFromAnyState :
    ({ closing with rstIn := [true] } : State).rstLevel = true ∧ closing.cfg.mode = .sw := ⟨rfl, rfl⟩
theorem witness_InvariantHoldsAtReset :
    Config.board.wf = true ∧ Config.wf { Config.board with height := 0 } = false ∧
    Config.wf { Config.board with fSclkHz := 0 } = false := by decide
/-- For EveryStepKeepsTheInvariant and ControllerNeverStops: idle, inside and at the end of a conversation, in both modes. -/
theorem witness_invariant :
    (asked 0x7000000000#40).inv = true ∧ (∃ t, step (asked 0x7000000000#40) = .next t) ∧
    (sending hwBoard .data 0x5A#8).inv = true ∧ (∃ t, step (sending hwBoard .data 0x5A#8) = .next t) ∧ closing.inv = true ∧
    (∃ t, step closing = .next t) := ⟨by decide, ⟨_, rfl⟩, by decide, ⟨_, rfl⟩, by decide, ⟨_, rfl⟩⟩
/-- For the reset clauses of the statements about one register, and OneResponsePerCommand. -/
theorem witness_underReset :
    ({ closing with rstIn := [true] } : State).rstLevel = true ∧ ∃ t, step { closing with rstIn := [true] } = .next t :=
  ⟨rfl, ⟨_, rfl⟩⟩
theorem witness_RotIsWrittenOnlyBySetRot :
    (asked 0x3300000000#40).rstLevel = false ∧ ∃ t, step (asked 0x3300000000#40) = .next t ∧ t.rot ≠ (asked 0x3300000000#40).rot :=
  ⟨rfl, _, rfl, by decide⟩
theorem witness_VcomIsWrittenOnlyByToggleAndInit :
    (∃ t, step { asked 0x1000000000#40 with vcom := false } = .next t ∧ t.vcom ≠ false) ∧
    (∃ t, step { closing with pend := [.act .toggleVcom] } = .next t ∧ t.vcom ≠ closing.vcom) :=
  ⟨⟨_, rfl, by decide⟩, ⟨_, rfl, by decide⟩⟩
theorem witness_SessionBitsAreWrittenOnlyBySystemCommands :
    (∃ t, step { State.reset with cmds := [0x1000000000#40] } = .next t ∧ State.reset.rstLevel = false ∧
      t.inited ≠ State.reset.inited ∧ State.reset.cfg.mode = .sw) ∧
    (∃ t, step { hwReady with cmds := [0x2000000000#40] } = .next t ∧ t.spiHeld ≠ hwReady.spiHeld) :=
  ⟨⟨_, rfl, by decide, by decide, rfl⟩, ⟨_, rfl, by decide⟩⟩
theorem witness_FaultIsSticky :
    (∃ t, step (asked 0#40) = .next t ∧ (asked 0#40).rstLevel = false ∧ t.fault ≠ (asked 0#40).fault) ∧
    (∃ t, step { asked 0#40 with fault := 3#2 } = .next t ∧ ({ asked 0#40 with fault := 3#2 } : State).fault ≠ 0#2) :=
  ⟨⟨_, rfl, by decide, by decide⟩, ⟨_, rfl, by decide⟩⟩
theorem witness_BufferIsWrittenOnlyByItsCommands :
    (∃ t, step (asked 0x4000000000#40) = .next t ∧ t.fb ≠ white.fb) ∧
    (∃ t, step { dotted with cmds := [0x6000000000#40] } = .next t ∧ t.fb ≠ dotted.fb) ∧
    (∃ t, step { dotted with phase := .conversation, pend := [.act .fbClear] } = .next t ∧ t.fb ≠ dotted.fb) :=
  ⟨⟨_, rfl, by decide⟩, ⟨_, rfl, by decide⟩, ⟨_, rfl, by decide⟩⟩
/-- For RefreshLoopIsItsClosedForm and ConversationSizes, in both modes. -/
theorem witness_wellFormed : white.cfg.wf = true ∧ hwReady.cfg.wf = true := by decide
/-- For OneSelectAndOneTogglePerConversation and ModesDifferOnlyInTransactionMarks. -/
theorem witness_conversations :
    Instr.refresh.opensConversation = true ∧ Instr.clearDisp.opensConversation = true ∧
    Instr.vcomTog.opensConversation = true := by decide
/-- For ConversationRunsToItsEnd and ListenerHearsTheGrammar: the clause of the commands other than CLEARDISP, in SW mode. -/
theorem witness_conversationRun :
    let s := asked 0x9000000000#40
    s.inv = true ∧ s.phase = .idle ∧ s.cmds = 0x9000000000#40 :: [] ∧ decode (.host 0x9000000000#40) = .ok .vcomTog ∧
    Instr.vcomTog.opensConversation = true ∧ s.transportReady = true ∧
    s.rstLowFor ((pendActions (conversationList .vcomTog s)).length + 1) = true ∧ Listener.start.last.scs = false :=
  ⟨by decide, rfl, rfl, rfl, rfl, by decide, by decide, rfl⟩
/-- For the same two: the clause of CLEARDISP, in HW mode, at the last address of the buffer. -/
theorem witness_conversationRunClear :
    let s : State := { hwReady with cmds := [0x8000000000#40] }
    s.inv = true ∧ s.phase = .idle ∧ s.cmds = 0x8000000000#40 :: [] ∧ decode (.host 0x8000000000#40) = .ok .clearDisp ∧
    Instr.clearDisp.opensConversation = true ∧ s.transportReady = true ∧
    s.rstLowFor ((pendActions (conversationList .clearDisp s)).length + 1) = true ∧ 3 < s.cfg.fbSize :=
  ⟨by decide, rfl, rfl, rfl, rfl, by decide, by decide, by decide⟩
/-- For StepRecordsWhatIsSeen: the first action in HW mode, the last of a HW-mode conversation, and the last in SW mode. -/
theorem witness_StepRecordsWhatIsSeen :
    (opening.rstLevel = false ∧ opening.phase = .conversation ∧
      opening.pend = .act .txnBegin :: [.act (.cs true), .act (.delay 6)] ∧ opening.cfg.mode = .hw) ∧
    (leaving.rstLevel = false ∧ leaving.phase = .conversation ∧ leaving.pend = .act .txnEnd :: [] ∧ leaving.cfg.mode = .hw) ∧
    (closing.rstLevel = false ∧ closing.phase = .conversation ∧ closing.pend = .act (.cs false) :: [] ∧
      closing.cfg.mode = .sw) :=
  ⟨⟨rfl, rfl, rfl, rfl⟩, ⟨rfl, rfl, rfl, rfl⟩, ⟨rfl, rfl, rfl, rfl⟩⟩

end Sys2Proof.Tests
end

section
/-! The state right after reset (R43, R280): which configurations have an instance, and that its reset state meets the
invariant of R42. -/

namespace Sys2Proof.Machine

/-- A well-formed configuration has an instance, its reset state. -/
theorem State.build_of_wf {c : Config} (h : c.wf = true) : State.build c = some (State.resetOf c) := if_pos h

/-- An ill-formed configuration has no instance. -/
theorem State.build_of_not_wf {c : Config} (h : c.wf = false) : State.build c = none := if_neg (ne_true_of_eq_false h)

/-- At reset the invariant asks for the configuration alone: the buffer lists no cell, SPI_HELD, TXN_OPEN and the pins are low,
and the idle sequencer has nothing pending. -/
theorem State.resetOf_inv {c : Config} (h : c.wf = true) : (State.resetOf c).inv = true := by
  refine (State.inv_iff _).2 ⟨h, Memory.wf_nil _ _, ?spiHeld, ?txnOpen, ?selected, ?idle, ?conversation⟩
  case spiHeld => exact fun held => absurd held Bool.false_ne_true
  case txnOpen => exact fun opened => absurd opened Bool.false_ne_true
  case selected => exact fun _ scs => absurd scs Bool.false_ne_true
  case idle => exact fun _ => ⟨rfl, rfl, rfl, rfl⟩
  case conversation => exact fun phase => Phase.noConfusion phase

/-- Settles O42: `State.build` tests `Config.wf`, and at reset every clause of the invariant but that one holds of any
configuration. -/
theorem invariantHoldsAtReset : Obligations.InvariantHoldsAtReset :=
  ⟨fun _ h => ⟨State.build_of_wf h, State.resetOf_inv h⟩, fun _ h => State.build_of_not_wf h,
    State.resetOf_inv (c := Config.board) (by decide)⟩

end Sys2Proof.Machine
end

section
/-! The reset table of R43: what a byte of the buffer reads at reset, and that until INIT every command that needs it faults. -/

namespace Sys2Proof.Machine

variable {s t : State}

/-- At reset a byte of the buffer of a well-formed configuration is the one FB_RESET lists for it (R21, R281). -/
theorem State.resetOf_byteAt {c : Config} (hw : c.wf = true) {a : Nat} (ha : a < c.fbSize) :
    c.fbReset[a]? = some ((State.resetOf c).byteAt a) := by
  obtain ⟨-, -, -, -, -, hlen, -⟩ := c.wf_iff.1 hw
  have read : (State.resetOf c).byteAt a = c.resetByte a := rfl
  have ha' : a < c.fbReset.length := hlen ▸ ha
  simp [read, Config.resetByte, ha']

/-- While INITED is 0 a command that needs it raises NotInitialized, whatever its operands (R234, R253). -/
theorem exec_of_not_inited {i : Instr} (hi : i.needsInit = true) (hs : s.inited = false) :
    exec i s = .next (s.raise .notInitialized) := by
  cases i with
  | shutdown | setRot | setPixel | getPixel | clearBuf | refresh | clearDisp | vcomTog | getDim => exact requireInit_raise hs
  | init | rdStat | wireCmdWrite | wireCmdClear | wireLineAddr | wireData | wireZero => exact absurd hi Bool.false_ne_true

/-- Settles O40: every row but the buffer's is a field of `State.resetOf`; the buffer's needs FB_RESET to have N bytes. -/
theorem resetTable : Obligations.ResetTable := fun _ hw =>
  ⟨fun _ ha => State.resetOf_byteAt hw ha, rfl, rfl, rfl, rfl, rfl, rfl, rfl, rfl, rfl, fun _ => ⟨rfl, rfl⟩, rfl, rfl, rfl,
    fun _ hi => exec_of_not_inited hi rfl⟩

end Sys2Proof.Machine
end

section
/-! What a step does in each of the sequencer's situations: under RST (R280), accepting a word (R34, R96), inside a conversation
(R40, R161); and that none changes the configuration (R5). -/

namespace Sys2Proof.Machine

variable {s t : State}

/-- A step under RST answers the reset state only (R280). -/
theorem step_reset_next (hr : s.rstLevel = true) (h : step s = .next t) : t = s.tick.applyReset :=
  (Host.Outcome.next.inj ((step_reset hr).symm.trans h)).symm

/-- With nothing presented an idle step only ticks (R34). -/
theorem step_idle_next (hr : s.rstLevel = false) (hp : s.phase = .idle) (hc : s.cmds = []) (h : step s = .next t) :
    t = s.tick :=
  (Host.Outcome.next.inj ((step_idle hr hp hc).symm.trans h)).symm

/-- A presented word is taken, and runs the instruction it decodes to or raises IllegalCommand (R34, R252). -/
theorem step_accept_next {w : HostWord} {rest : List HostWord} (hr : s.rstLevel = false) (hp : s.phase = .idle)
    (hc : s.cmds = w :: rest) (h : step s = .next t) :
    (∃ i, decode (.host w) = .ok i ∧ exec i { s.tick with cmds := rest } = .next t) ∨
    t = State.raise { s.tick with cmds := rest } .illegalCommand := by
  cases hd : decode (.host w) with
  | ok i => exact .inl ⟨i, rfl, (step_command hr hp hc hd).symm.trans h⟩
  | error e => exact .inr (Host.Outcome.next.inj ((step_illegal hr hp hc hd).symm.trans h)).symm

/-- Inside a conversation a step ends it, performs the head action of PEND, or begins the byte at its head (R40, R161). -/
theorem step_conversation_next (hr : s.rstLevel = false) (hp : s.phase = .conversation) (h : step s = .next t) :
    (s.pend = [] ∧ t = s.tick.settle) ∨
    (∃ a rest, s.pend = .act a :: rest ∧ t = State.settle (State.perform { s.tick with pend := rest } a)) ∨
    (∃ b rest, t = State.observePins { s.tick with sclk := false, pend := (xfer b).tail.map Item.act ++ rest }) := by
  have notIdle : s.phase ≠ .idle := by rw [hp]; exact Phase.noConfusion
  rcases step_cases h with ⟨hr', -⟩ | ⟨-, hp', -⟩ | ⟨_, _, _, -, hp', -⟩ | ⟨_, _, _, -, hp', -⟩ | ⟨-, -, hl, ht⟩ |
    ⟨a, rest, -, -, hl, ht⟩ | ⟨k, b, rest, i, -, -, -, hd, he⟩
  · exact absurd (hr.symm.trans hr') Bool.false_ne_true
  · exact absurd hp' notIdle
  · exact absurd hp' notIdle
  · exact absurd hp' notIdle
  · exact .inl ⟨hl, ht⟩
  · exact .inr (.inl ⟨a, rest, hl, ht⟩)
  · exact .inr (.inr ⟨itemByte i, rest, (exec_wire_next (itemByte_decode hd).1 he).2⟩)

/-- No instruction changes the configuration (R5). -/
theorem exec_cfg {i : Instr} (h : exec i s = .next t) : t.cfg = s.cfg := by
  cases hc : i.opensConversation with
  | true =>
    rcases exec_conversation_next hc h with ⟨-, rfl⟩ | ⟨-, f, rfl⟩
    · rfl
    · rfl
  | false =>
    cases hi : i.isHostCommand with
    | true => exact (exec_host_frame hi hc h).1
    | false => rw [(exec_wire_next hi h).2]; rfl

/-- No step changes the configuration (R5, R24). -/
theorem step_cfg (h : step s = .next t) : t.cfg = s.cfg := by
  rcases step_cases h with ⟨-, rfl⟩ | ⟨-, -, -, rfl⟩ | ⟨_, _, _, -, -, -, -, he⟩ | ⟨_, _, _, -, -, -, -, rfl⟩ |
    ⟨-, -, -, rfl⟩ | ⟨_, _, -, -, -, rfl⟩ | ⟨_, _, _, _, -, -, -, -, he⟩
  · rfl
  · rfl
  · exact (exec_cfg he).trans rfl
  · rfl
  · exact s.tick.settle_cfg
  · simp
  · exact (exec_cfg he).trans rfl

end Sys2Proof.Machine
end

section
/-! Responses (R35): which operations add one to the history, and that each accepted command gets exactly one. -/

namespace Sys2Proof.Machine

variable (s : State)

@[simp] theorem State.emitResponse_responses (r : RspWord) : (s.emitResponse r).responses = s.responses ++ [r] := by
  simp [State.responses, Obs.response?]

@[simp] theorem State.raise_responses (f : FaultKind) : (s.raise f).responses = s.responses ++ [(s.raise f).rsp] :=
  State.emitResponse_responses _ _

@[simp] theorem State.observePins_responses : s.observePins.responses = s.responses := by
  simp [State.responses, Obs.response?]

@[simp] theorem State.applyReset_responses : s.applyReset.responses = s.responses := State.observePins_responses _

/-- An action shows the observer no response (R14, R40). -/
@[simp] theorem State.perform_responses (a : Action) : (s.perform a).responses = s.responses := by
  obtain ⟨seen, ht, hs⟩ := s.perform_trace a
  have silent : seen.filterMap Obs.response? = [] := hs
  simp [State.responses, ht, silent]

/-- With PEND used up the conversation ends in one response (R40). -/
theorem State.settle_responses_done (h : s.pend = []) :
    s.settle.phase = .idle ∧ s.settle.responses = s.responses ++ [s.settle.rsp] ∧ s.settle.rspValid = true := by
  rw [s.settle_done h]
  exact ⟨rfl, State.emitResponse_responses _ _, rfl⟩

variable {s} {t : State}

/-- A host command answers with one response at once and leaves PHASE, or it opens a conversation and gives none yet (R35, R190). -/
theorem exec_host_responds {i : Instr} (hi : i.isHostCommand = true) (h : exec i s = .next t) :
    t.cmds = s.cmds ∧
    ((t.phase = s.phase ∧ t.responses = s.responses ++ [t.rsp] ∧ t.rspValid = true) ∨
     (t.phase = .conversation ∧ t.responses = s.responses)) := by
  cases hc : i.opensConversation with
  | true =>
    rcases exec_conversation_next hc h with ⟨-, rfl⟩ | ⟨-, f, rfl⟩
    · exact ⟨rfl, .inr ⟨rfl, rfl⟩⟩
    · exact ⟨rfl, .inl ⟨rfl, s.raise_responses f, rfl⟩⟩
  | false =>
    obtain ⟨-, -, -, hphase, -, hcmds, -, -, hvalid, -, -, hresponses⟩ := exec_host_frame hi hc h
    exact ⟨hcmds, .inl ⟨hphase, hresponses, hvalid⟩⟩

/-- An accepted word gets its one response at once, an illegal word its fault's, or it opens a conversation (R35). -/
theorem step_accept_responds {w : HostWord} {rest : List HostWord} (hr : s.rstLevel = false) (hp : s.phase = .idle)
    (hc : s.cmds = w :: rest) (h : step s = .next t) :
    t.cmds = rest ∧
    ((t.phase = .idle ∧ t.responses = s.responses ++ [t.rsp] ∧ t.rspValid = true) ∨
     (t.phase = .conversation ∧ t.responses = s.responses)) := by
  rcases step_accept_next hr hp hc h with ⟨i, hd, he⟩ | rfl
  · obtain ⟨hcmds, hanswer⟩ := exec_host_responds (isHostCommand_decode hd) he
    exact ⟨hcmds, hanswer.imp_left fun ⟨hphase, hresponse⟩ => ⟨hphase.trans hp, hresponse⟩⟩
  · exact ⟨rfl, .inl ⟨hp, State.raise_responses _ _, rfl⟩⟩

/-- Inside a conversation the response comes with the step that leaves PEND empty, and no earlier (R35, R40). -/
theorem step_conversation_responds (hr : s.rstLevel = false) (hp : s.phase = .conversation) (h : step s = .next t) :
    (t.phase = .idle ∧ t.pend = [] ∧ t.responses = s.responses ++ [t.rsp] ∧ t.rspValid = true) ∨
    (t.phase = .conversation ∧ t.pend ≠ [] ∧ t.responses = s.responses) := by
  rcases step_conversation_next hr hp h with ⟨hl, rfl⟩ | ⟨a, rest, -, rfl⟩ | ⟨b, rest, rfl⟩
  · obtain ⟨hphase, hresponse⟩ := s.tick.settle_responses_done hl
    exact .inl ⟨hphase, s.tick.settle_pend.trans hl, hresponse⟩
  · have hpend := State.perform_pend { s.tick with pend := rest } a
    have hresponses := State.perform_responses { s.tick with pend := rest } a
    by_cases hrest : rest = []
    · obtain ⟨hphase, hresponse, hvalid⟩ := State.settle_responses_done _ (hpend.trans hrest)
      exact .inl ⟨hphase, (State.settle_pend _).trans (hpend.trans hrest),
        hresponse.trans (congrArg (· ++ _) hresponses), hvalid⟩
    · have more := fun done => hrest (hpend.symm.trans done)
      rw [State.settle_more more]
      exact .inr ⟨(State.perform_phase _ a).trans hp, more, hresponses⟩
  · exact .inr ⟨hp, by simp [xfer, xferBit], State.observePins_responses _⟩

/-- Settles O38: the four situations of a step, each by its lemma. -/
theorem oneResponsePerCommand : Obligations.OneResponsePerCommand := by
  intro s t h
  refine ⟨fun hr => ?reset, fun hr hp hc => ?idle, fun w rest hr hp hc => step_accept_responds hr hp hc h,
    fun hr hp => step_conversation_responds hr hp h⟩
  case reset =>
    rw [step_reset_next hr h]
    exact s.tick.applyReset_responses
  case idle =>
    rw [step_idle_next hr hp hc h]
    exact ⟨rfl, hp⟩

end Sys2Proof.Machine
end

section
/-! Who writes the registers ROT, VCOM, INITED, SPI_HELD and FAULT (R22 to R27), said once for a whole step without reset. -/

namespace Sys2Proof.Machine

/-- The idle sequencer is presented a word that decodes to `i` (R34). -/
def State.Accepts (s : State) (i : Instr) : Prop :=
  s.phase = .idle ∧ ∃ w rest, s.cmds = w :: rest ∧ decode (.host w) = .ok i

/-- FAULT is as before, or it was 0 and is now the code that the response just given carries (R27, R251). -/
def FaultKept (s t : State) : Prop :=
  t.fault = s.fault ∨ (s.fault = 0#2 ∧ t.rspValid = true ∧ t.rsp = t.fault ++ 0#32)

/-- From `s` to `t` each register is as before, unless the one event that writes it took place (R22 to R27). -/
structure RegisterWrites (s t : State) : Prop where
  rot : t.rot = s.rot ∨ s.Accepts (.setRot t.rot)
  vcom : t.vcom = s.vcom ∨ (s.Accepts .init ∧ t.vcom = s.cfg.vcomInit) ∨
    (s.phase = .conversation ∧ t.vcom = !s.vcom ∧ ∃ rest, s.pend = .act .toggleVcom :: rest)
  inited : t.inited = s.inited ∨ s.Accepts .init
  spiHeld : t.spiHeld = s.spiHeld ∨ (s.cfg.mode = .hw ∧ (s.Accepts .init ∨ s.Accepts .shutdown))
  fault : FaultKept s t

variable {s t : State}

/-- A raise keeps a code that is there, and answers with the one it sets (R251). -/
theorem State.raise_faultKept (s : State) (f : FaultKind) : FaultKept s (s.raise f) :=
  (s.raise_fault_cases f).imp_right fun ⟨clear, carries⟩ => ⟨clear, rfl, carries⟩

/-- The registers a host command writes, those that open a conversation among them: these write FAULT at most (R195). -/
theorem exec_host_registers {i : Instr} (hi : i.isHostCommand = true) (h : exec i s = .next t) :
    (t.rot = s.rot ∨ i = .setRot t.rot) ∧
    (t.vcom = s.vcom ∨ (i = .init ∧ t.vcom = s.cfg.vcomInit)) ∧
    (t.inited = s.inited ∨ i = .init) ∧
    (t.spiHeld = s.spiHeld ∨ (s.cfg.mode = .hw ∧ (i = .init ∨ i = .shutdown))) ∧
    FaultKept s t := by
  cases hc : i.opensConversation with
  | true =>
    rcases exec_conversation_next hc h with ⟨-, rfl⟩ | ⟨-, f, rfl⟩
    · exact ⟨.inl rfl, .inl rfl, .inl rfl, .inl rfl, .inl rfl⟩
    · exact ⟨.inl rfl, .inl rfl, .inl rfl, .inl rfl, s.raise_faultKept f⟩
  | false =>
    obtain ⟨-, -, -, -, -, -, -, -, hvalid, -⟩ := exec_host_frame hi hc h
    obtain ⟨hrot, hvcom, hinited, hheld, hfault, -⟩ := exec_host_writes hi hc h
    exact ⟨hrot, hvcom, hinited, hheld, hfault.imp_right fun ⟨clear, carries⟩ => ⟨clear, hvalid, carries⟩⟩

/-- An accepted word writes what its instruction may write; an illegal one FAULT at most (R96). -/
theorem step_accept_registerWrites {w : HostWord} {rest : List HostWord} (hr : s.rstLevel = false) (hp : s.phase = .idle)
    (hc : s.cmds = w :: rest) (h : step s = .next t) : RegisterWrites s t := by
  rcases step_accept_next hr hp hc h with ⟨i, hd, he⟩ | rfl
  · have accepts : ∀ {j}, i = j → s.Accepts j := fun hj => ⟨hp, w, rest, hc, hj ▸ hd⟩
    obtain ⟨hrot, hvcom, hinited, hheld, hfault⟩ := exec_host_registers (isHostCommand_decode hd) he
    exact {
      rot := hrot.imp_right accepts
      vcom := hvcom.imp_right fun ⟨hj, loaded⟩ => .inl ⟨accepts hj, loaded⟩
      inited := hinited.imp_right accepts
      spiHeld := hheld.imp_right fun ⟨hm, hj⟩ => ⟨hm, hj.imp accepts accepts⟩
      fault := hfault }
  · exact ⟨.inl rfl, .inl rfl, .inl rfl, .inl rfl, State.raise_faultKept _ _⟩

/-- VCOM is inverted by TOGGLE_VCOM and left by every other action (R40). -/
theorem State.perform_vcom (s : State) (a : Action) :
    (s.perform a).vcom = s.vcom ∨ (a = .toggleVcom ∧ (s.perform a).vcom = !s.vcom) := by
  obtain ⟨-, -, -, hvcom, -⟩ := s.perform_writes a
  rw [hvcom]
  cases a with
  | toggleVcom => exact .inr ⟨rfl, rfl⟩
  | _ => exact .inl rfl

/-- Inside a conversation the only register written is VCOM, by its TOGGLE_VCOM action (R23, R41). -/
theorem step_conversation_registerWrites (hr : s.rstLevel = false) (hp : s.phase = .conversation) (h : step s = .next t) :
    RegisterWrites s t := by
  rcases step_conversation_next hr hp h with ⟨-, rfl⟩ | ⟨a, rest, hl, rfl⟩ | ⟨b, rest, rfl⟩
  · exact ⟨.inl (by simp), .inl (by simp), .inl (by simp), .inl (by simp), .inl (by simp)⟩
  · refine ⟨.inl (by simp), ?vcom, .inl (by simp), .inl (by simp), .inl (by simp)⟩
    rw [State.settle_vcom]
    refine (State.perform_vcom { s.tick with pend := rest } a).imp_right fun ⟨ha, inverted⟩ => .inr ?_
    exact ⟨hp, inverted, rest, ha ▸ hl⟩
  · exact ⟨.inl rfl, .inl rfl, .inl rfl, .inl rfl, .inl rfl⟩

/-- Without reset a step writes a register only by the event that may. -/
theorem step_registerWrites (hr : s.rstLevel = false) (h : step s = .next t) : RegisterWrites s t := by
  cases hp : s.phase with
  | idle =>
    cases hc : s.cmds with
    | nil =>
      rw [step_idle_next hr hp hc h]
      exact ⟨.inl rfl, .inl rfl, .inl rfl, .inl rfl, .inl rfl⟩
    | cons w rest => exact step_accept_registerWrites hr hp hc h
  | conversation => exact step_conversation_registerWrites hr hp h

/-- Settles O45: ROT's row of `RegisterWrites`, and the reset value. -/
theorem rotIsWrittenOnlyBySetRot : Obligations.RotIsWrittenOnlyBySetRot := by
  intro s t h
  refine ⟨fun hr => ?reset, fun hr changed => (step_registerWrites hr h).rot.resolve_left changed⟩
  case reset => rw [step_reset_next hr h]; rfl

/-- Settles O46: VCOM's row of `RegisterWrites`, and the reset value. -/
theorem vcomIsWrittenOnlyByToggleAndInit : Obligations.VcomIsWrittenOnlyByToggleAndInit := by
  intro s t h
  refine ⟨fun hr => ?reset, fun hr changed => ?written⟩
  case reset => rw [step_reset_next hr h]; rfl
  case written =>
    exact ((step_registerWrites hr h).vcom.resolve_left changed).imp_left fun ⟨⟨idle, word⟩, loaded⟩ => ⟨idle, loaded, word⟩

/-- SPI_HELD reads 0 in SW mode, whatever is stored (R26). -/
theorem State.spiHeldBit_sw (h : s.cfg.mode = .sw) : s.spiHeldBit = false := by
  simp [State.spiHeldBit, h, modeBit]

/-- Two commands that may have been accepted are one word that may decode to either. -/
theorem State.accepts_or {i j : Instr} (h : s.Accepts i ∨ s.Accepts j) :
    s.phase = .idle ∧ ∃ w rest, s.cmds = w :: rest ∧ (decode (.host w) = .ok i ∨ decode (.host w) = .ok j) := by
  rcases h with ⟨idle, w, rest, hc, hd⟩ | ⟨idle, w, rest, hc, hd⟩
  · exact ⟨idle, w, rest, hc, .inl hd⟩
  · exact ⟨idle, w, rest, hc, .inr hd⟩

/-- Settles O47: the rows of INITED and SPI_HELD of `RegisterWrites`, the reset values, and that MODE is never written. -/
theorem sessionBitsAreWrittenOnlyBySystemCommands : Obligations.SessionBitsAreWrittenOnlyBySystemCommands := by
  intro s t h
  refine ⟨fun hr => ?reset, fun hr changed => (step_registerWrites hr h).inited.resolve_left changed,
    fun hr changed => ?held, fun sw => State.spiHeldBit_sw ((congrArg Config.mode (step_cfg h)).trans sw)⟩
  case reset => rw [step_reset_next hr h]; exact ⟨rfl, rfl⟩
  case held =>
    obtain ⟨hw, accepted⟩ := (step_registerWrites hr h).spiHeld.resolve_left changed
    obtain ⟨idle, word⟩ := State.accepts_or accepted
    exact ⟨idle, hw, word⟩

/-- Settles O48: `FaultKept` of every step without reset, and the reset value. -/
theorem faultIsSticky : Obligations.FaultIsSticky := by
  intro s t h
  refine ⟨fun hr => ?reset, fun hr set => ?kept, fun hr changed => (step_registerWrites hr h).fault.resolve_left changed⟩
  case reset => rw [step_reset_next hr h]; rfl
  case kept => exact (step_registerWrites hr h).fault.resolve_right fun ⟨clear, _⟩ => set clear

end Sys2Proof.Machine
end

section
/-! The host decoder inverts the encoder (30_encoding.md R92, R94, R96): a word decodes to the command it encodes, and it decodes
to no other. -/

namespace Sys2Proof

variable {w : HostWord} {i j : Instr} {ok : Bool}

theorem ifZeroBits_eq_ok_iff : ifZeroBits ok i = .ok j ↔ ok = true ∧ i = j := by
  cases ok <;> simp [ifZeroBits]

theorem ifZeroBits_refuses_iff : (∃ e, ifZeroBits ok i = .error e) ↔ ok = false := by
  cases ok <;> simp [ifZeroBits]

/-- A command with no operand is read from its one word only (R92). -/
theorem decodePlain_eq_ok_iff :
    decodePlain w i = .ok j ↔ (hostArg w = 0#4 ∧ hostX w = 0#16 ∧ hostY w = 0#16) ∧ i = j := by
  simp [decodePlain, ifZeroBits_eq_ok_iff, and_assoc]

/-- A code made of four fields is that of a word exactly when they are the word's fields (R91). -/
theorem host_hostWord_eq_iff {op arg : BitVec 4} {x y : CoordField} :
    Code.host (hostWord op arg x y) = .host w ↔ hostOp w = op ∧ hostArg w = arg ∧ hostX w = x ∧ hostY w = y := by
  constructor
  · intro h
    obtain rfl := Code.host.inj h
    exact ⟨hostOp_hostWord .., hostArg_hostWord .., hostX_hostWord .., hostY_hostWord ..⟩
  · rintro ⟨rfl, rfl, rfl, rfl⟩
    rw [hostWord_of_fields]

/-- Where SETROT's two zero bits of `arg` are 0, the operand bits give all of it (R92). -/
theorem arg_eq_of_twoBits {a : BitVec 4} (h : a.extractLsb' 2 2 = 0#2) : a = 0#2 ++ a.extractLsb' 0 2 := by
  revert a; decide

/-- Where SETPIXEL's three zero bits of `arg` are 0, the operand bit gives all of it (R92). -/
theorem arg_eq_of_oneBit {a : BitVec 4} (h : a.extractLsb' 1 3 = 0#3) : a = 0#3 ++ BitVec.ofBool (a.getLsbD 0) := by
  revert a; decide

/-- A word that decodes is the encoding of what it decodes to: the decoder ignores no bit (R96). -/
theorem encode_of_decodeHost (h : decodeHost w = .ok i) : encode i = .host w := by
  unfold decodeHost at h
  split at h
  case h_3 hop =>
    obtain ⟨hz, rfl⟩ := ifZeroBits_eq_ok_iff.1 h
    simp only [Bool.and_eq_true, beq_iff_eq] at hz
    obtain ⟨⟨harg, hx⟩, hy⟩ := hz
    exact host_hostWord_eq_iff.2 ⟨BitVec.eq_of_toNat_eq hop, arg_eq_of_twoBits harg, hx, hy⟩
  case h_4 hop =>
    obtain ⟨hz, rfl⟩ := ifZeroBits_eq_ok_iff.1 h
    exact host_hostWord_eq_iff.2 ⟨BitVec.eq_of_toNat_eq hop, arg_eq_of_oneBit (beq_iff_eq.1 hz), rfl, rfl⟩
  case h_5 hop =>
    obtain ⟨hz, rfl⟩ := ifZeroBits_eq_ok_iff.1 h
    exact host_hostWord_eq_iff.2 ⟨BitVec.eq_of_toNat_eq hop, beq_iff_eq.1 hz, rfl, rfl⟩
  case h_12 => cases h
  all_goals
    rename_i hop
    obtain ⟨⟨harg, hx, hy⟩, rfl⟩ := decodePlain_eq_ok_iff.1 h
    exact host_hostWord_eq_iff.2 ⟨BitVec.eq_of_toNat_eq hop, harg, hx, hy⟩

/-- The encoding of a host command decodes to it, with every operand at every value. -/
theorem decode_encode_of_isHostCommand (hi : i.isHostCommand = true) : decode (encode i) = .ok i := by
  cases i with
  | init | shutdown | clearBuf | refresh | clearDisp | vcomTog | getDim | rdStat => rfl
  | setRot r => revert r; decide
  | setPixel x y v =>
    simp only [encode, decode, decodeHost, hostOp_hostWord, hostArg_hostWord, hostX_hostWord, hostY_hostWord]
    cases v <;> rfl
  | getPixel x y =>
    simp only [encode, decode, decodeHost, hostOp_hostWord, hostArg_hostWord, hostX_hostWord, hostY_hostWord]
    rfl
  | wireCmdWrite | wireCmdClear | wireLineAddr | wireData | wireZero => exact absurd hi Bool.false_ne_true

/-- The host decoder is the inverse of the encoder. -/
theorem decode_host_eq_ok_iff : decode (.host w) = .ok i ↔ encode i = .host w := by
  refine ⟨encode_of_decodeHost, fun h => ?_⟩
  rw [← h]
  exact decode_encode_of_isHostCommand (by simp [Instr.isHostCommand, h])

/-- The low two bits of `arg` are bits 33:32 of the word (R91). -/
theorem hostArg_lowBits (w : HostWord) : (hostArg w).extractLsb' 0 2 = w.extractLsb' 32 2 := by
  refine BitVec.eq_of_getLsbD_eq fun n hn => ?_
  have inArg : n < 4 := by omega
  simp [hostArg, hn, inArg]

/-- The lowest bit of `arg` is bit 32 of the word (R91). -/
theorem hostArg_lowestBit (w : HostWord) : (hostArg w).getLsbD 0 = w.getLsbD 32 := by
  simp [hostArg]

/-- SETROT's operand is bits 33:32 of its word (R92, R94). -/
theorem setRot_operand {r : RotState} (h : decode (.host w) = .ok (.setRot r)) : r = w.extractLsb' 32 2 := by
  obtain ⟨-, harg, -, -⟩ := host_hostWord_eq_iff.1 (decode_host_eq_ok_iff.1 h)
  rw [← hostArg_lowBits, harg, BitVec.extractLsb'_append_eq_right]

/-- SETPIXEL's operands are bits 31:16, bits 15:0 and bit 32 of its word (R92, R94). -/
theorem setPixel_operands {x y : CoordField} {v : Bool} (h : decode (.host w) = .ok (.setPixel x y v)) :
    x = w.extractLsb' 16 16 ∧ y = w.extractLsb' 0 16 ∧ v = w.getLsbD 32 := by
  obtain ⟨-, harg, hx, hy⟩ := host_hostWord_eq_iff.1 (decode_host_eq_ok_iff.1 h)
  refine ⟨hx.symm, hy.symm, ?_⟩
  rw [← hostArg_lowestBit, harg]
  cases v <;> rfl

/-- GETPIXEL's operands are bits 31:16 and 15:0 of its word (R92, R94). -/
theorem getPixel_operands {x y : CoordField} (h : decode (.host w) = .ok (.getPixel x y)) :
    x = w.extractLsb' 16 16 ∧ y = w.extractLsb' 0 16 := by
  obtain ⟨-, -, hx, hy⟩ := host_hostWord_eq_iff.1 (decode_host_eq_ok_iff.1 h)
  exact ⟨hx.symm, hy.symm⟩

end Sys2Proof
end

section
/-! The match and mask table of R93: a word that matches a row encodes a command of the row's name, and
the encoding of a command matches a row, so what holds of the encoder holds of the table. -/

namespace Sys2Proof

variable {w : HostWord} {r r' : HostRow} {i : Instr}

/-- A word matches a row exactly when its fields match the row's fields (R91, R93). -/
theorem matchesWord_iff_fields (name : String) (mo ma po pa : BitVec 4) (mx my px py : CoordField) :
    (HostRow.mk name (hostWord mo ma mx my) (hostWord po pa px py)).matchesWord w = true ↔
      hostOp w &&& mo = po ∧ hostArg w &&& ma = pa ∧ hostX w &&& mx = px ∧ hostY w &&& my = py := by
  rw [← hostWord_inj, ← hostWord_and, hostWord_of_fields]
  exact beq_iff_eq

/-- A row with no free bit is matched by its pattern only. -/
theorem host_pattern_eq {name : String} {p : HostWord}
    (h : (HostRow.mk name (BitVec.allOnes 40) p).matchesWord w = true) : Code.host p = .host w := by
  have masked : w &&& BitVec.allOnes 40 = p := beq_iff_eq.1 h
  rw [← masked, BitVec.and_allOnes]

/-- A word that matches the SETROT row encodes a SETROT. -/
theorem encode_of_matchesWord_setRot
    (h : (HostRow.mk "SETROT" 0xFCFFFFFFFF#40 0x3000000000#40).matchesWord w = true) :
    encode (.setRot ((hostArg w).extractLsb' 0 2)) = .host w := by
  obtain ⟨hop, harg, hx, hy⟩ :=
    (matchesWord_iff_fields "SETROT" 0xF#4 0xC#4 0x3#4 0#4 0xFFFF#16 0xFFFF#16 0#16 0#16).1 h
  have zeroBits : ∀ a : BitVec 4, a &&& 0xC#4 = 0#4 → a.extractLsb' 2 2 = 0#2 := by decide
  exact host_hostWord_eq_iff.2 ⟨BitVec.and_allOnes.symm.trans hop, arg_eq_of_twoBits (zeroBits _ harg),
    BitVec.and_allOnes.symm.trans hx, BitVec.and_allOnes.symm.trans hy⟩

/-- A word that matches the SETPIXEL row encodes a SETPIXEL. -/
theorem encode_of_matchesWord_setPixel
    (h : (HostRow.mk "SETPIXEL" 0xFE00000000#40 0x4000000000#40).matchesWord w = true) :
    encode (.setPixel (hostX w) (hostY w) ((hostArg w).getLsbD 0)) = .host w := by
  obtain ⟨hop, harg, -, -⟩ := (matchesWord_iff_fields "SETPIXEL" 0xF#4 0xE#4 0x4#4 0#4 0#16 0#16 0#16 0#16).1 h
  have zeroBits : ∀ a : BitVec 4, a &&& 0xE#4 = 0#4 → a.extractLsb' 1 3 = 0#3 := by decide
  exact host_hostWord_eq_iff.2 ⟨BitVec.and_allOnes.symm.trans hop, arg_eq_of_oneBit (zeroBits _ harg), rfl, rfl⟩

/-- A word that matches the GETPIXEL row encodes a GETPIXEL. -/
theorem encode_of_matchesWord_getPixel
    (h : (HostRow.mk "GETPIXEL" 0xFF00000000#40 0x5000000000#40).matchesWord w = true) :
    encode (.getPixel (hostX w) (hostY w)) = .host w := by
  obtain ⟨hop, harg, -, -⟩ := (matchesWord_iff_fields "GETPIXEL" 0xF#4 0xF#4 0x5#4 0#4 0#16 0#16 0#16 0#16).1 h
  exact host_hostWord_eq_iff.2 ⟨BitVec.and_allOnes.symm.trans hop, BitVec.and_allOnes.symm.trans harg, rfl, rfl⟩

/-- A word that matches a row encodes a command of the row's name. -/
theorem encode_of_matchesWord (hr : r ∈ hostRows) (h : r.matchesWord w = true) :
    ∃ i, encode i = .host w ∧ i.mnemonic = r.mnemonic := by
  simp only [hostRows, List.mem_cons, List.not_mem_nil, or_false] at hr
  rcases hr with rfl | rfl | rfl | rfl | rfl | rfl | rfl | rfl | rfl | rfl | rfl
  · exact ⟨.init, host_pattern_eq h, rfl⟩
  · exact ⟨.shutdown, host_pattern_eq h, rfl⟩
  · exact ⟨_, encode_of_matchesWord_setRot h, rfl⟩
  · exact ⟨_, encode_of_matchesWord_setPixel h, rfl⟩
  · exact ⟨_, encode_of_matchesWord_getPixel h, rfl⟩
  · exact ⟨.clearBuf, host_pattern_eq h, rfl⟩
  · exact ⟨.refresh, host_pattern_eq h, rfl⟩
  · exact ⟨.clearDisp, host_pattern_eq h, rfl⟩
  · exact ⟨.vcomTog, host_pattern_eq h, rfl⟩
  · exact ⟨.getDim, host_pattern_eq h, rfl⟩
  · exact ⟨.rdStat, host_pattern_eq h, rfl⟩

/-- Every instruction's encoding stands in its own row of the tables (R93, R99 to R103). -/
theorem encodingRow (i : Instr) : Laws.EncodingRow.Statement i := by
  cases i with
  | init => exact Laws.EncodingRow.init
  | shutdown => exact Laws.EncodingRow.shutdown
  | setRot r => exact Laws.EncodingRow.setRot r
  | setPixel x y v => exact Laws.EncodingRow.setPixel x y v
  | getPixel x y => exact Laws.EncodingRow.getPixel x y
  | clearBuf => exact Laws.EncodingRow.clearBuf
  | refresh => exact Laws.EncodingRow.refresh
  | clearDisp => exact Laws.EncodingRow.clearDisp
  | vcomTog => exact Laws.EncodingRow.vcomTog
  | getDim => exact Laws.EncodingRow.getDim
  | rdStat => exact Laws.EncodingRow.rdStat
  | wireCmdWrite v => exact Laws.EncodingRow.wireCmdWrite v
  | wireCmdClear v => exact Laws.EncodingRow.wireCmdClear v
  | wireLineAddr a => exact Laws.EncodingRow.wireLineAddr a
  | wireData d => exact Laws.EncodingRow.wireData d
  | wireZero => exact Laws.EncodingRow.wireZero

/-- A word that decodes matches a row (R93). -/
theorem matchesWord_of_decode (h : decode (.host w) = .ok i) : ∃ r ∈ hostRows, r.matchesWord w = true := by
  have row := encodingRow i
  simp only [Laws.EncodingRow.Statement, decode_host_eq_ok_iff.1 h] at row
  obtain ⟨r, hr, -, hm⟩ := row
  exact ⟨r, hr, hm⟩

/-- No two rows bear one name. -/
theorem hostRows_mnemonic_inj : ∀ r ∈ hostRows, ∀ r' ∈ hostRows, r.mnemonic = r'.mnemonic → r = r' := by decide

/-- At most one row matches a word: it encodes one command, which has one name (R93). -/
theorem matchesWord_unique (hr : r ∈ hostRows) (hr' : r' ∈ hostRows) (h : r.matchesWord w = true)
    (h' : r'.matchesWord w = true) : r = r' := by
  obtain ⟨i, hi, hname⟩ := encode_of_matchesWord hr h
  obtain ⟨j, hj, hname'⟩ := encode_of_matchesWord hr' h'
  have same : i = j :=
    Except.ok.inj ((decode_host_eq_ok_iff.2 hi).symm.trans (decode_host_eq_ok_iff.2 hj))
  exact hostRows_mnemonic_inj r hr r' hr' (by rw [← hname, same, hname'])

/-- A word that matches no row is refused (R93, R96). -/
theorem decode_refuses_of_no_row (h : ∀ r ∈ hostRows, r.matchesWord w = false) : ∃ e, decode (.host w) = .error e := by
  cases hd : decode (.host w) with
  | error e => exact ⟨e, rfl⟩
  | ok i =>
    obtain ⟨r, hr, hm⟩ := matchesWord_of_decode hd
    exact absurd hm (ne_true_of_eq_false (h r hr))

/-- Settles O4: matching a row, encoding a command of its name and decoding to it are the same. -/
theorem decoderIsTheMatchMaskTable : Obligations.DecoderIsTheMatchMaskTable := by
  intro w
  refine ⟨fun r hr hm => ?decodes, fun _ hr _ hr' h h' => matchesWord_unique hr hr' h h', decode_refuses_of_no_row,
    fun _ => setRot_operand, fun _ _ _ => setPixel_operands, fun _ _ => getPixel_operands⟩
  case decodes =>
    obtain ⟨i, hi, hname⟩ := encode_of_matchesWord hr hm
    exact ⟨i, decode_host_eq_ok_iff.2 hi, hname⟩

end Sys2Proof
end

section
/-! What a response and a raise write (R95, R251), and the words that are illegal (R96, R252). -/

namespace Sys2Proof.Machine

variable {w : HostWord}

/-- Settles O16: both are updates of the response port, a raise one of FAULT too. -/
theorem respondAndRaise : Obligations.RespondAndRaise :=
  ⟨rfl, rfl, rfl, fun _ _ => rfl, fun _ _ => rfl⟩

/-- The decoder refuses exactly the words that R96 calls illegal. -/
theorem decode_refuses_iff_illegalWord : (∃ e, decode (.host w) = .error e) ↔ illegalWord w = true := by
  change (∃ e, decodeHost w = .error e) ↔ _
  unfold decodeHost
  split
  case h_12 =>
    simp only [imp_false] at *
    have reserved : (hostOp w).toNat = 0 ∨ (hostOp w).toNat = 12 ∨ (hostOp w).toNat = 13 ∨ (hostOp w).toNat = 14 ∨
      (hostOp w).toNat = 15 := by omega
    simp [illegalWord, reserved]
  all_goals
    rename_i hop
    simp [illegalWord, hop, decodePlain, ifZeroBits_refuses_iff, imp_iff_not_or, or_assoc]

/-- Settles O5: the step that accepts a refused word raises. -/
theorem illegalWordRaisesIllegalCommand : Obligations.IllegalWordRaisesIllegalCommand := by
  refine fun w => ⟨decode_refuses_iff_illegalWord, fun s rest illegal hr hp hc => ?_⟩
  obtain ⟨e, hd⟩ := decode_refuses_iff_illegalWord.2 illegal
  obtain ⟨-, -, -, -, raise_eq⟩ := respondAndRaise
  rw [step_illegal hr hp hc hd, raise_eq]
  rfl

end Sys2Proof.Machine
end

section
/-! The operand forms read as the spec's tables: the logical dimensions (R131), the range check (R132) and the rotation transform
(R133). -/

namespace Sys2Proof.Machine

variable {c : Config} {rot : RotState} {x y : CoordField}

/-- The upright rotations keep the physical dimensions (R131). -/
theorem logicalDims_upright (h : rot = 0#2 ∨ rot = 2#2) :
    logicalWidth c rot = c.width ∧ logicalHeight c rot = c.height := by
  rcases h with rfl | rfl
  · exact ⟨rfl, rfl⟩
  · exact ⟨rfl, rfl⟩

/-- The sideways rotations swap them (R131). -/
theorem logicalDims_sideways (h : rot = 1#2 ∨ rot = 3#2) :
    logicalWidth c rot = c.height ∧ logicalHeight c rot = c.width := by
  rcases h with rfl | rfl
  · exact ⟨rfl, rfl⟩
  · exact ⟨rfl, rfl⟩

/-- Every logical dimension fits a positive coordinate field (R6, R131). -/
theorem logicalDims_le (hw : c.wf = true) (rot : RotState) :
    logicalWidth c rot ≤ 32760 ∧ logicalHeight c rot ≤ 32760 := by
  obtain ⟨-, -, hwidth, -, hheight, -⟩ := c.wf_iff.1 hw
  have hheight' : c.height ≤ 32760 := hheight.trans (by decide)
  unfold logicalWidth logicalHeight
  split
  · exact ⟨hheight', hwidth⟩
  · exact ⟨hwidth, hheight'⟩

/-- Settles O7: the two rows of R131, and the bounds of R6 on W and H. -/
theorem logicalDimensionsFollowRotation : Obligations.LogicalDimensionsFollowRotation := fun _ hw =>
  ⟨fun _ => logicalDims_upright, fun _ => logicalDims_sideways, logicalDims_le hw⟩

/-- Two coordinate fields name a pixel exactly when they are in range as signed numbers (R132). -/
theorem pixelLoc_isSome_iff : (pixelLoc c rot x y).isSome = true ↔
    0 ≤ x.toInt ∧ x.toInt < logicalWidth c rot ∧ 0 ≤ y.toInt ∧ y.toInt < logicalHeight c rot := by
  simp only [pixelLoc, inRange, Option.isSome_ite, Bool.and_eq_true, decide_eq_true_eq, and_assoc]
  exact Iff.rfl

/-- The mirrored coordinate of R133 is exact on the numbers below the dimension. -/
theorem natCast_mirror {n k : Nat} (h : k < n) : ((n - 1 - k : Nat) : Int) = (n : Int) - 1 - k := by omega

/-- Settles O9: one rotation at a time; being in range makes each mirrored coordinate exact. -/
theorem rotationTransformIsTheTable : Obligations.RotationTransformIsTheTable := by
  intro c rot x y hx hy
  rcases rot.cases with rfl | rfl | rfl | rfl
  · rfl
  · exact Prod.ext (natCast_mirror hy) rfl
  · exact Prod.ext (natCast_mirror hx) (natCast_mirror hy)
  · exact Prod.ext rfl (natCast_mirror hx)

end Sys2Proof.Machine
end

section
/-! What SETROT, GETDIM, SETPIXEL, GETPIXEL and CLEARBUF answer once INITED is 1 (R136 to R140); while it is 0 each raises
(`exec_of_not_inited`). -/

namespace Sys2Proof.Machine

variable {s : State} {x y : CoordField}

/-- SETROT writes ROT (R136). -/
theorem exec_setRot (r : RotState) (hi : s.inited = true) :
    exec (.setRot r) s = .next (State.respond { s with rot := r } 0#32) :=
  requireInit_ready hi

/-- GETDIM answers LW and LH side by side (R137). -/
theorem exec_getDim (hi : s.inited = true) :
    exec .getDim s = .next
      (s.respond (BitVec.ofNat 16 (logicalWidth s.cfg s.rot) ++ BitVec.ofNat 16 (logicalHeight s.cfg s.rot))) :=
  requireInit_ready hi

/-- CLEARBUF clears the buffer (R140). -/
theorem exec_clearBuf (hi : s.inited = true) : exec .clearBuf s = .next (s.clearBuffer.respond 0#32) :=
  requireInit_ready hi

/-- SETPIXEL out of range is a no-op that responds 0 (R138). -/
theorem exec_setPixel_outOfRange (v : Bool) (hi : s.inited = true) (hp : pixelLoc s.cfg s.rot x y = none) :
    exec (.setPixel x y v) s = .next (s.respond 0#32) := by
  refine (requireInit_ready hi).trans ?_
  rw [hp]

/-- GETPIXEL out of range reads 0 (R139). -/
theorem exec_getPixel_outOfRange (hi : s.inited = true) (hp : pixelLoc s.cfg s.rot x y = none) :
    exec (.getPixel x y) s = .next (s.respond 0#32) := by
  refine (requireInit_ready hi).trans ?_
  rw [hp]

/-- Settles O8: the check as a proposition, and the out-of-range answer of both commands. -/
theorem rangeCheckIsSignedAndLogical : Obligations.RangeCheckIsSignedAndLogical := by
  refine ⟨fun c rot x y => pixelLoc_isSome_iff, fun s x y v hi hout => ?_⟩
  have hp : pixelLoc s.cfg s.rot x y = none := by simpa using hout
  exact ⟨exec_setPixel_outOfRange v hi hp, exec_getPixel_outOfRange hi hp⟩

/-- Storing a byte with one bit replaced replaces that bit of the buffer and no other (R69). -/
theorem getLsbD_read_write_withBit (d : Nat → Byte) (m : List Host.Cell) (a a' k k' : Nat) (v : Bool) (hk : k < 8)
    (hk' : k' < 8) :
    (Memory.read d (Memory.write d m a (withBit (Memory.read d m a) k v)) a').getLsbD k'
      = if a' = a ∧ k' = k then v else (Memory.read d m a').getLsbD k' := by
  rw [Memory.read_write]
  by_cases ha : a = a'
  · subst ha
    simp [withBit_getLsbD _ _ _ _ hk' hk]
  · simp [ha, Ne.symm ha]

/-- Settles O20: in range SETPIXEL stores its byte with one bit replaced; out of range and un-initialised by the lemmas above. -/
theorem setPixelWritesOneBit : Obligations.SetPixelWritesOneBit := by
  refine fun s x y v hw => ⟨fun a k hi hp => ?_, exec_setPixel_outOfRange v, exec_of_not_inited rfl⟩
  refine ⟨_, execSetPixel_ready hi hp (pixelLoc_lt hw hp), rfl, fun a' k' hk' => ?_⟩
  exact getLsbD_read_write_withBit _ _ a a' k k' v (pixelLoc_bit hp) hk'

/-- Settles O21: in range GETPIXEL answers one bit of the byte located, zero-extended. -/
theorem getPixelReadsOneBit : Obligations.GetPixelReadsOneBit := by
  refine fun s x y hw => ⟨fun a k hi hp => ?_, exec_getPixel_outOfRange, exec_of_not_inited rfl⟩
  rw [← bitData_eq _ k (pixelLoc_bit hp)]
  exact execGetPixel_ready hi hp (pixelLoc_lt hw hp)

/-- Settles O18: SETROT answers by the state of INITED. -/
theorem setRotWritesRot : Obligations.SetRotWritesRot := fun _ r => ⟨exec_setRot r, exec_of_not_inited rfl⟩

/-- Settles O19: a logical dimension fits its 16-bit field of the data. -/
theorem getDimReportsLogicalDimensions : Obligations.GetDimReportsLogicalDimensions := by
  refine fun s hw => ⟨fun hi => ⟨_, exec_getDim hi, ?_, ?_⟩, exec_of_not_inited rfl⟩
  · rw [BitVec.extractLsb'_append_eq_left, BitVec.toNat_ofNat, Nat.mod_eq_of_lt]
    have := (logicalDims_le hw s.rot).1
    omega
  · rw [BitVec.extractLsb'_append_eq_right, BitVec.toNat_ofNat, Nat.mod_eq_of_lt]
    have := (logicalDims_le hw s.rot).2
    omega

/-- Settles O22: every byte of a cleared buffer reads 0xFF. -/
theorem clearBufSetsEveryByte : Obligations.ClearBufSetsEveryByte := fun s =>
  ⟨fun hi => ⟨_, exec_clearBuf hi, rfl, s.byteAt_clearBuffer⟩, exec_of_not_inited rfl⟩

end Sys2Proof.Machine
end

section
/-! What REFRESH, CLEARDISP and VCOMTOG load once their checks have passed (R190 to R197), and the first byte they send (R192). -/

namespace Sys2Proof.Machine

variable {s : State}

/-- REFRESH opens with its body between OPEN and CLOSE (R193). -/
theorem exec_refresh_ready (h : s.transportReady = true) :
    exec .refresh s = .next (s.openWith (conversation s.cfg (refreshBody s))) :=
  exec_conversation_ready rfl h

/-- CLEARDISP clears the buffer ahead of OPEN (R196). -/
theorem exec_clearDisp_ready (h : s.transportReady = true) :
    exec .clearDisp s = .next (s.openWith (.act .fbClear :: conversation s.cfg (clearBody s))) :=
  exec_conversation_ready rfl h

/-- VCOMTOG opens with its body between OPEN and CLOSE (R197). -/
theorem exec_vcomTog_ready (h : s.transportReady = true) :
    exec .vcomTog s = .next (s.openWith (conversation s.cfg (toggleBody s))) :=
  exec_conversation_ready rfl h

/-- Settles O23: each command's list, with its bracket, body and command byte (`commandByte`) written out. -/
theorem conversationCommandsLoadTheirList : Obligations.ConversationCommandsLoadTheirList := fun _ h =>
  ⟨exec_refresh_ready h, exec_clearDisp_ready h, exec_vcomTog_ready h⟩

/-- OPEN sends no byte, so the first byte of a conversation is the command byte its body begins with (R191, R192). -/
theorem wireBytes_conversation_head (c : Config) (flag : Byte) (s : State) (body : List Item) :
    (wireBytes (conversation c (commandItem flag s :: body))).head? = some (commandByte flag s.vcom) := by
  unfold conversation openBracket
  cases c.mode with
  | sw => rfl
  | hw => rfl

/-- The two command bytes of `WRITE_COMMAND` (R99). -/
theorem commandByte_write (v : Bool) : commandByte writeCommand v = if v then 0x03#8 else 0x01#8 := by
  cases v <;> rfl

/-- The two command bytes of `CLEAR` (R99). -/
theorem commandByte_clear (v : Bool) : commandByte clearCommand v = if v then 0x06#8 else 0x04#8 := by
  cases v <;> rfl

/-- Settles O6: each list sends its command byte first; CLEARDISP's clearing of the buffer, ahead of OPEN, is no byte. -/
theorem commandByteCarriesVcom : Obligations.CommandByteCarriesVcom := by
  intro s h
  rw [← commandByte_write, ← commandByte_clear]
  exact ⟨⟨_, exec_refresh_ready h, wireBytes_conversation_head ..⟩,
    ⟨_, exec_vcomTog_ready h, wireBytes_conversation_head ..⟩,
    ⟨_, exec_clearDisp_ready h, wireBytes_conversation_head ..⟩⟩

end Sys2Proof.Machine
end

section
/-! What SHUTDOWN, RDSTAT and INIT answer (R231 to R233), SPI_HELD being a register in HW mode only (R26). -/

namespace Sys2Proof.Machine

variable {s t : State}

/-- SPI_HELD is not written in SW mode (R26). -/
theorem State.writeSpiHeld_sw (hm : s.cfg.mode = .sw) (v : Bool) : s.writeSpiHeld v = s := by
  simp [State.writeSpiHeld, hm]

/-- SPI_HELD is written in HW mode (R26). -/
theorem State.writeSpiHeld_hw (hm : s.cfg.mode = .hw) (v : Bool) : s.writeSpiHeld v = { s with spiHeld := v } := by
  simp [State.writeSpiHeld, hm]

/-- SHUTDOWN writes SPI_HELD and responds (R232). -/
theorem exec_shutdown (hi : s.inited = true) : exec .shutdown s = .next ((s.writeSpiHeld false).respond 0#32) :=
  requireInit_ready hi

/-- Settles O26: SHUTDOWN's write of SPI_HELD, in each mode. -/
theorem shutdownReleasesThePeripheral : Obligations.ShutdownReleasesThePeripheral := by
  refine fun s => ⟨fun hi hm => ?hw, fun hi hm => ?sw, exec_of_not_inited rfl⟩
  case hw => rw [exec_shutdown hi, State.writeSpiHeld_hw hm]
  case sw => rw [exec_shutdown hi, State.writeSpiHeld_sw hm]

/-! ### The STATUS word -/

/-- The MODE bit is 1 exactly in HW mode (R24). -/
theorem modeBit_eq (m : Mode) : modeBit m = decide (m = .hw) := by
  cases m with
  | sw => rfl
  | hw => rfl

/-- The STATUS word as its four single bits put one after the other below the three fields (R28). -/
theorem State.statusWord_eq_concat (s : State) : s.statusWord =
    ((((0#24 ++ s.fault ++ s.rot).concat s.vcom).concat (modeBit s.cfg.mode)).concat s.spiHeldBit).concat s.inited := rfl

/-- A field above the last bit of a word is read one place lower without that bit. -/
theorem extractLsb'_concat_succ {w : Nat} (x : BitVec w) (b : Bool) (k len : Nat) :
    (x.concat b).extractLsb' (k + 1) len = x.extractLsb' k len :=
  BitVec.extractLsb'_append_eq_of_le (Nat.le_add_left 1 k)

/-- The fields of STATUS above its four single bits (R28). -/
theorem State.extractLsb'_statusWord (s : State) (k len : Nat) :
    s.statusWord.extractLsb' (k + 4) len = (0#24 ++ s.fault ++ s.rot).extractLsb' k len := by
  simp only [s.statusWord_eq_concat, extractLsb'_concat_succ]

/-- Settles O27: RDSTAT answers the STATUS word; each single bit is found by dropping those below it, each field above them by
where its neighbours end. -/
theorem rdStatReportsStatus : Obligations.RdStatReportsStatus := by
  refine fun s => ⟨s.statusWord, rfl, ?inited, ?spiHeld, ?mode, ?vcom, ?rot, ?fault, ?zero⟩
  case inited => exact BitVec.getLsbD_concat_zero
  case spiHeld =>
    simp only [← modeBit_eq, s.statusWord_eq_concat, BitVec.getLsbD_concat_succ, BitVec.getLsbD_concat_zero, State.spiHeldBit]
  case mode => simp only [← modeBit_eq, s.statusWord_eq_concat, BitVec.getLsbD_concat_succ, BitVec.getLsbD_concat_zero]
  case vcom => simp only [s.statusWord_eq_concat, BitVec.getLsbD_concat_succ, BitVec.getLsbD_concat_zero]
  case rot => exact (s.extractLsb'_statusWord 0 2).trans BitVec.extractLsb'_append_eq_right
  case fault =>
    calc s.statusWord.extractLsb' 6 2
      _ = (0#24 ++ s.fault ++ s.rot).extractLsb' 2 2 := s.extractLsb'_statusWord 2 2
      _ = (0#24 ++ s.fault).extractLsb' 0 2 := BitVec.extractLsb'_append_eq_of_le le_rfl
      _ = s.fault := BitVec.extractLsb'_append_eq_right
  case zero =>
    calc s.statusWord.extractLsb' 8 24
      _ = (0#24 ++ s.fault ++ s.rot).extractLsb' 4 24 := s.extractLsb'_statusWord 4 24
      _ = (0#24 ++ s.fault).extractLsb' 2 24 := BitVec.extractLsb'_append_eq_of_le (by decide)
      _ = 0#24 := BitVec.extractLsb'_append_eq_left

/-! ### INIT -/

/-- In SW mode INIT drives SCS and SCLK to 0 (R231). -/
theorem State.restPins_sw (hm : s.cfg.mode = .sw) :
    s.restPins = { s with scs := false, sclk := false, trace := s.restPins.trace } := by
  simp [State.restPins, hm]

/-- In HW mode INIT drives SCS alone to 0 (R231). -/
theorem State.restPins_hw (hm : s.cfg.mode = .hw) : s.restPins = { s with scs := false, trace := s.restPins.trace } := by
  simp [State.restPins, hm]

/-- Driving the pins to the levels they have is no edge (R14, R231). -/
theorem State.restPins_trace (hscs : s.scs = false) (hsclk : s.restPins.sclk = s.sclk) : s.restPins.trace = s.trace :=
  if_pos ⟨hscs.symm, hsclk⟩

/-- In HW mode SCLK is no rest level of INIT's, so a low SCS is enough for no edge (R231). -/
theorem State.restPins_trace_hw (hm : s.cfg.mode = .hw) (hscs : s.scs = false) : s.restPins.trace = s.trace :=
  State.restPins_trace hscs (by rw [State.restPins_hw hm])

/-- INIT's success in SW mode (R231). -/
theorem State.initDone_sw (hm : s.cfg.mode = .sw) :
    s.initDone = State.respond { s with vcom := s.cfg.vcomInit, inited := true } 1#32 := by
  rw [State.initDone, State.writeSpiHeld_sw]
  exact hm

/-- INIT's success in HW mode (R231). -/
theorem State.initDone_hw (hm : s.cfg.mode = .hw) :
    s.initDone = State.respond { s with vcom := s.cfg.vcomInit, inited := true, spiHeld := true } 1#32 := by
  rw [State.initDone, State.writeSpiHeld_hw]
  exact hm

/-- INIT's failure in HW mode (R231, R256). -/
theorem State.initFailed_hw (hm : s.cfg.mode = .hw) :
    s.initFailed = State.respond { s with inited := false, spiHeld := false } 0#32 := by
  rw [State.initFailed, State.writeSpiHeld_hw]
  exact hm

/-- In SW mode INIT succeeds (R231). -/
theorem exec_init_sw (hm : s.cfg.mode = .sw) : exec .init s = .next s.restPins.initDone :=
  congrArg _ (if_pos hm)

/-- In HW mode INIT does as INIT_OK, sampled once, says (R231, R37). -/
theorem exec_init_hw (hm : s.cfg.mode = .hw) : exec .init s = .next (State.initWith s.sampleInitOk) :=
  congrArg _ (if_neg (by rw [hm]; exact Mode.noConfusion))

/-- The sample is the next answer of the input stream (R37). -/
theorem State.sampleInitOk_cons {b : Bool} {rest : List Bool} (ha : s.initOkIn = b :: rest) :
    s.sampleInitOk = (b, { s with initOkIn := rest }) := by
  rw [State.sampleInitOk, ha]

/-- In HW mode the answer 1 acquires the peripheral (R231). -/
theorem exec_init_acquired {rest : List Bool} (hm : s.cfg.mode = .hw) (ha : s.initOkIn = true :: rest) :
    exec .init s = .next (State.restPins { s with initOkIn := rest }).initDone := by
  rw [exec_init_hw hm, State.sampleInitOk_cons ha]
  rfl

/-- In HW mode the answer 0 leaves the controller un-initialised (R231, R256). -/
theorem exec_init_denied {rest : List Bool} (hm : s.cfg.mode = .hw) (ha : s.initOkIn = false :: rest) :
    exec .init s = .next (State.restPins { s with initOkIn := rest }).initFailed := by
  rw [exec_init_hw hm, State.sampleInitOk_cons ha]
  rfl

/-- Settles O24: in each of INIT's three outcomes the registers it writes, the pins it drives and, where they are at rest, the one
observation that it adds. -/
theorem initStartsASession : Obligations.InitStartsASession := by
  refine fun s => ⟨fun hm => ⟨_, exec_init_sw hm, ?sw, fun hscs hsclk => ?swTrace⟩,
    fun hm rest ha => ⟨_, exec_init_acquired hm ha, ?acquired, fun hscs => ?acquiredTrace⟩,
    fun hm rest ha => ⟨_, exec_init_denied hm ha, ?denied, fun hscs => ?deniedTrace⟩⟩
  case sw =>
    rw [State.initDone_sw (s := s.restPins) hm, State.restPins_sw hm]
    rfl
  case swTrace => exact congrArg (· ++ _) (State.restPins_trace hscs (by rw [State.restPins_sw hm, hsclk]))
  case acquired =>
    rw [State.initDone_hw, State.restPins_hw]
    · rfl
    · exact hm
    · exact hm
  case denied =>
    rw [State.initFailed_hw, State.restPins_hw]
    · rfl
    · exact hm
    · exact hm
  case acquiredTrace => exact congrArg (· ++ _) (State.restPins_trace_hw (s := { s with initOkIn := rest }) hm hscs)
  case deniedTrace => exact congrArg (· ++ _) (State.restPins_trace_hw (s := { s with initOkIn := rest }) hm hscs)

end Sys2Proof.Machine
end

section
/-! The precondition table (R234): a command whose preconditions hold completes without a fault, and the response tells a command
that completes from one that raises (R95). -/

namespace Sys2Proof.Machine

variable {s t : State}

/-- INIT never raises: it responds, whatever INIT_OK says (R231). -/
theorem exec_init_responds (h : exec .init s = .next t) : ∃ u d, t = State.respond u d := by
  cases hm : s.cfg.mode with
  | sw => exact ⟨_, _, (Host.Outcome.next.inj ((exec_init_sw hm).symm.trans h)).symm⟩
  | hw =>
    obtain rfl := Host.Outcome.next.inj ((exec_init_hw hm).symm.trans h)
    unfold State.initWith
    split
    · exact ⟨_, _, rfl⟩
    · exact ⟨_, _, rfl⟩

/-- A host command that opens no conversation and has INITED where it needs it responds (R234). -/
theorem exec_host_responds_of_inited {i : Instr} (hi : i.isHostCommand = true) (hc : i.opensConversation = false)
    (ready : i.needsInit = true → s.inited = true) (h : exec i s = .next t) : ∃ u d, t = State.respond u d := by
  cases i with
  | init => exact exec_init_responds h
  | shutdown | setRot | clearBuf | getDim =>
    cases (requireInit_ready (ready rfl)).symm.trans h
    exact ⟨_, _, rfl⟩
  | setPixel x y v =>
    rcases execSetPixel_next h with ⟨hn, -⟩ | ⟨-, -, ht⟩ | ⟨_, _, -, -, -, ht⟩
    · exact absurd (hn.symm.trans (ready rfl)) Bool.false_ne_true
    · exact ⟨_, _, ht⟩
    · exact ⟨_, _, ht⟩
  | getPixel x y =>
    rcases execGetPixel_next h with ⟨hn, -⟩ | ⟨-, -, ht⟩ | ⟨_, _, -, -, -, ht⟩
    · exact absurd (hn.symm.trans (ready rfl)) Bool.false_ne_true
    · exact ⟨_, _, ht⟩
    · exact ⟨_, _, ht⟩
  | rdStat => exact ⟨_, _, (Host.Outcome.next.inj h).symm⟩
  | refresh | clearDisp | vcomTog => exact absurd hc.symm Bool.false_ne_true
  | wireCmdWrite | wireCmdClear | wireLineAddr | wireData | wireZero => exact absurd hi Bool.false_ne_true

/-- A response without a fault is never a raise's: the fault field is 0 in the one only (R95, R251). -/
theorem State.respond_ne_raise (u s : State) (d : BitVec 32) (f : FaultKind) : u.respond d ≠ s.raise f := by
  intro h
  have code : 0#2 = f.code := by simpa [rspErr_responseWord] using congrArg (fun v => rspErr v.rsp) h
  cases f with
  | illegalCommand | notInitialized | transportReleased => exact absurd code (by decide)

/-- Opening a conversation gives no response yet, so it is never a raise (R35, R190). -/
theorem State.openWith_ne_raise (s : State) (l : List Item) (f : FaultKind) : s.openWith l ≠ s.raise f := by
  intro h
  have responses : s.responses = s.responses ++ [(s.raise f).rsp] :=
    (congrArg State.responses h).trans (s.raise_responses f)
  simp at responses

/-- A conversation command of an initialised controller raises TransportReleased in HW mode with SPI_HELD 0 (R195, R254). -/
theorem exec_of_released {i : Instr} (hi : i.opensConversation = true) (hs : s.inited = true) (hm : s.cfg.mode = .hw)
    (hh : s.spiHeld = false) : exec i s = .next (s.raise .transportReleased) := by
  have released (k) : requireTransport s k = .next (s.raise .transportReleased) := by
    simp [requireTransport, requireInit_ready hs, State.spiHeldBit, hm, hh]
  cases i with
  | refresh | clearDisp | vcomTog => exact released _
  | _ => exact absurd hi Bool.false_ne_true

/-- SPI_HELD wherever it is checked is all that a conversation command needs beside INITED (R195, R234). -/
theorem State.transportReady_of_held (hs : s.inited = true) (held : s.cfg.mode = .hw → s.spiHeld = true) :
    s.transportReady = true := by
  refine s.transportReady_iff.2 ⟨hs, ?_⟩
  cases hm : s.cfg.mode with
  | sw => exact .inl rfl
  | hw => exact .inr (by simp [State.spiHeldBit, modeBit_eq, hm, held hm])

/-- Only commands that need INITED open a conversation (R234). -/
theorem needsInit_of_opensConversation {i : Instr} (hi : i.opensConversation = true) : i.needsInit = true := by
  cases i with
  | refresh | clearDisp | vcomTog => rfl
  | _ => exact absurd hi Bool.false_ne_true

/-- Settles O17: each check fails with its fault; past them a command opens its conversation or responds. -/
theorem preconditionsRaiseInOrder : Obligations.PreconditionsRaiseInOrder := by
  refine fun i s => ⟨exec_of_not_inited, exec_of_released, fun hi ready held f raised => ?_⟩
  cases hc : i.opensConversation with
  | true =>
    have opens := exec_conversation_ready hc
      (State.transportReady_of_held (ready (needsInit_of_opensConversation hc)) (held hc))
    exact s.openWith_ne_raise _ f (Host.Outcome.next.inj (opens.symm.trans raised))
  | false =>
    obtain ⟨u, d, responds⟩ := exec_host_responds_of_inited hi hc ready raised
    exact u.respond_ne_raise s d f responds.symm

end Sys2Proof.Machine
end

section
/-! Reset from any state (R36, R280): what the buffer reads and what an observer sees of the pins after it. -/

namespace Sys2Proof.Machine

variable (s : State)

/-- Reset lists no cell, so every byte reads as FB_RESET has it (R21, R281). -/
@[simp] theorem State.applyReset_byteAt (a : Nat) : s.applyReset.byteAt a = s.cfg.resetByte a := rfl

/-- Reset adds the triple it leaves on the pins to the history and drops none of it (logs 15, 16). -/
theorem State.applyReset_trace : s.applyReset.trace = s.trace ++ [.pins s.applyReset.pins] := rfl

/-- SCS is seen as it is driven, in both modes and inside or outside a transaction (R30). -/
@[simp] theorem State.pins_scs : s.pins.scs = s.scs := by
  unfold State.pins
  split
  · rfl
  · rfl

/-- In SW mode all three pins are seen as they are driven (R31, R32). -/
theorem State.pins_sw (hm : s.cfg.mode = .sw) : s.pins = ⟨s.scs, s.sclk, s.si⟩ :=
  if_neg (by simp [hm])

/-- Settles O41: the step under RST is `State.applyReset`, which keeps of the old state only its configuration, its inputs and the
model's own counters and history, so each register is a field of `State.resetOf`; what is seen of the pins depends on the mode. -/
theorem resetFromAnyState : Obligations.ResetFromAnyState := by
  refine fun s hr => ⟨s.tick.applyReset, step_reset hr, s.tick.applyReset_byteAt,
    rfl, rfl, rfl, rfl, rfl, rfl, rfl, rfl, rfl, rfl, fun _ => ⟨rfl, rfl⟩, rfl, rfl, rfl, s.tick.applyReset_responses,
    s.tick.applyReset.pins, s.tick.applyReset_trace, ?scs, ?sw⟩
  case scs => exact s.tick.applyReset.pins_scs
  case sw => exact fun hm => s.tick.applyReset.pins_sw hm

end Sys2Proof.Machine
end

section
/-! Decoding inverts encoding, for host words and for wire bytes at their places (30_encoding.md sections 2 and 3). -/

namespace Sys2Proof

/-- The byte of a well-formed wire item decodes to it at its own place (R99 to R103). -/
theorem decode_encode_of_wire {c : Config} {i : Instr} (hi : i.isHostCommand = false) (hw : i.wf c = true) :
    decode (encode i) = .ok i := by
  cases i with
  | wireCmdWrite v | wireCmdClear v => cases v <;> rfl
  | wireLineAddr a =>
    simp only [Instr.wf, Bool.and_eq_true, decide_eq_true_eq] at hw
    obtain ⟨positive, -⟩ := hw
    have ha : a ≠ 0#8 := by
      rintro rfl
      exact absurd positive (by decide)
    simp [encode, decode, decodeWire, ha]
  | wireData d => rfl
  | wireZero => rfl
  | _ => exact absurd hi.symm Bool.false_ne_true

/-- Settles O2: a host command decodes from its fields, a wire item at its own place; only a line address must be well formed. -/
theorem decodeOfEncode : Obligations.DecodeOfEncode := by
  intro c i hw
  cases hi : i.isHostCommand with
  | true => exact decode_encode_of_isHostCommand hi
  | false => exact decode_encode_of_wire hi hw

/-- Settles O3: each of the two decoders answers only what encodes to the code it read. -/
theorem encodeOfDecode : Obligations.EncodeOfDecode := by
  intro code i h
  cases code with
  | host w => exact encode_of_decodeHost h
  | wire k b => exact decodeWire_encode h

/-- Settles O1: each word is decoded as it stands. -/
theorem specWordsDecode : Obligations.SpecWordsDecode :=
  ⟨rfl, rfl, rfl, rfl, rfl, rfl, rfl, rfl, rfl, rfl, rfl⟩

end Sys2Proof
end

section
/-! The invariant of R42 along a step: a host command keeps it, and so does each action and each byte of an open conversation. -/

namespace Sys2Proof.Machine

variable {s t : State} {i : Instr}

/-! ### What a host command leaves of it -/

/-- A host command keeps the buffer's canonical form: a pixel is stored inside the buffer (R60, R68). -/
theorem exec_host_canonical (hi : i.isHostCommand = true) (hm : Memory.wf s.cfg.resetByte s.cfg.fbSize s.fb = true)
    (h : exec i s = .next t) : Memory.wf s.cfg.resetByte s.cfg.fbSize t.fb = true := by
  cases hc : i.opensConversation with
  | true =>
    rcases exec_conversation_next hc h with ⟨-, rfl⟩ | ⟨-, f, rfl⟩
    · exact hm
    · exact hm
  | false =>
    obtain ⟨-, -, -, -, -, hfb⟩ := exec_host_writes hi hc h
    rcases hfb with kept | rfl | ⟨x, y, v, rfl⟩
    · rw [kept]; exact hm
    · rcases requireInit_next h with ⟨-, cleared⟩ | ⟨-, rfl⟩
      · cases cleared
        exact Memory.wf_filled ..
      · exact hm
    · rcases execSetPixel_next h with ⟨-, rfl⟩ | ⟨-, -, rfl⟩ | ⟨a, k, -, -, inside, rfl⟩
      · exact hm
      · exact hm
      · exact Memory.wf_write _ _ _ _ _ hm inside

/-- INIT holds the peripheral in HW mode only, and then INITED is 1 (R231). -/
theorem exec_init_held (held : s.spiHeld = true → s.cfg.mode = .hw ∧ s.inited = true) (h : exec .init s = .next t) :
    t.spiHeld = true → s.cfg.mode = .hw ∧ t.inited = true := by
  obtain ⟨-, -, -, -, -, -, ⟨hinited, -, hheld⟩ | ⟨-, -, -, released⟩⟩ := execInit_next h
  · intro ht
    refine ⟨?_, hinited⟩
    cases hm : s.cfg.mode with
    | hw => rfl
    | sw =>
      rw [hheld, hm] at ht
      exact hm.symm.trans (held ht).1
  · exact fun ht => absurd (released.symm.trans ht) Bool.false_ne_true

/-- SHUTDOWN only ever releases the peripheral, and leaves INITED (R232). -/
theorem exec_shutdown_held (held : s.spiHeld = true → s.cfg.mode = .hw ∧ s.inited = true)
    (h : exec .shutdown s = .next t) : t.spiHeld = true → s.cfg.mode = .hw ∧ t.inited = true := by
  rcases requireInit_next h with ⟨-, done⟩ | ⟨-, rfl⟩
  · cases done
    cases hm : s.cfg.mode with
    | hw => simp [hm]
    | sw => rw [State.writeSpiHeld_sw hm]; exact fun ht => hm ▸ held ht
  · exact held

/-- Under a host command the peripheral stays held in HW mode and by an initialised controller only (R42 (a)). -/
theorem exec_host_held (hi : i.isHostCommand = true) (held : s.spiHeld = true → s.cfg.mode = .hw ∧ s.inited = true)
    (h : exec i s = .next t) : t.spiHeld = true → s.cfg.mode = .hw ∧ t.inited = true := by
  obtain ⟨-, -, hinited, hheld, -⟩ := exec_host_registers hi h
  rcases hinited with hinited | rfl
  · rcases hheld with hheld | ⟨-, rfl | rfl⟩
    · rw [hheld, hinited]; exact held
    · exact exec_init_held held h
    · exact exec_shutdown_held held h
  · exact exec_init_held held h

/-- A host command that opens no conversation leaves an idle controller idle, with its pins at rest (R38, R190). -/
theorem exec_host_inv_of_idle (hi : i.isHostCommand = true) (hc : i.opensConversation = false) (hp : s.phase = .idle)
    (hs : s.inv = true) (h : exec i s = .next t) : t.inv = true := by
  obtain ⟨hwf, hmem, hheld, htxn, -, hidle, -⟩ := s.inv_iff.1 hs
  obtain ⟨hpend, hscs, hsclk, hclosed⟩ := hidle hp
  obtain ⟨ecfg, -, etxn, ephase, epend, -, -, -, -, escs, esclk, -⟩ := exec_host_frame hi hc h
  have low : t.scs = false := escs.elim (·.trans hscs) id
  have clockLow : t.sclk = false := esclk.elim (·.trans hsclk) id
  have closed : t.txnOpen = false := etxn.trans hclosed
  refine t.inv_iff.2 ⟨ecfg ▸ hwf, ?memory, ?held, ?txn, ?selected, ?idle, ?conversation⟩
  case memory => rw [ecfg]; exact exec_host_canonical hi hmem h
  case held => rw [ecfg]; exact exec_host_held hi hheld h
  case txn => exact fun opened => absurd (closed.symm.trans opened) Bool.false_ne_true
  case selected => exact fun _ selected => absurd (low.symm.trans selected) Bool.false_ne_true
  case idle => exact fun _ => ⟨epend.trans hpend, low, clockLow, closed⟩
  case conversation => exact fun opened => Phase.noConfusion (hp.symm.trans (ephase.symm.trans opened))

/-- Opening a conversation from rest loads a list that keeps the bracket (R168). -/
theorem State.openWith_inv (hp : s.phase = .idle) (hs : s.inv = true) (i : Instr) :
    (s.openWith (conversationList i s)).inv = true := by
  obtain ⟨hwf, hmem, hheld, htxn, hsel, hidle, -⟩ := s.inv_iff.1 hs
  obtain ⟨-, hscs, hsclk, hclosed⟩ := hidle hp
  refine (State.inv_iff _).2 ⟨hwf, hmem, hheld, htxn, hsel, Phase.noConfusion, fun _ => ⟨conversationList_ne i s, ?_⟩⟩
  simpa [hscs, hsclk, hclosed] using bracketed_conversationList s hwf i

/-- A host command accepted by an idle controller keeps the invariant. -/
theorem exec_host_inv (hi : i.isHostCommand = true) (hp : s.phase = .idle) (hs : s.inv = true)
    (h : exec i s = .next t) : t.inv = true := by
  cases hc : i.opensConversation with
  | true =>
    rcases exec_conversation_next hc h with ⟨-, rfl⟩ | ⟨-, f, rfl⟩
    · exact State.openWith_inv hp hs i
    · exact hs
  | false => exact exec_host_inv_of_idle hi hc hp hs h

/-! ### What the conversation's actions and bytes leave of it -/

/-- Performing an action keeps the buffer's canonical form (R40). -/
theorem State.perform_canonical (hm : Memory.wf s.cfg.resetByte s.cfg.fbSize s.fb = true) (a : Action) :
    Memory.wf s.cfg.resetByte s.cfg.fbSize (s.perform a).fb = true := by
  obtain ⟨-, -, -, -, -, hfb⟩ := s.perform_writes a
  rw [hfb]
  split
  · exact Memory.wf_filled ..
  · exact hm

/-- Performing the head of PEND keeps the invariant: it moves along the bracket, and at its end everything is at rest (R168). -/
theorem State.performHead_inv {a : Action} {rest : List Item} (hs : s.inv = true) (hp : s.phase = .conversation)
    (hl : s.pend = .act a :: rest) : (State.settle (State.perform { s with pend := rest } a)).inv = true := by
  obtain ⟨hwf, hmem, hheld, htxn, hsel, -, hopen⟩ := s.inv_iff.1 hs
  have hb := (hopen hp).2
  rw [hl] at hb
  obtain ⟨hb, htxn, hsel⟩ := bracketed_act hb htxn hsel
  obtain ⟨wscs, wsclk, -, -, wtxn, -⟩ := State.perform_writes { s with pend := rest } a
  refine (State.inv_iff _).2 ⟨?wf, ?memory, ?held, ?txn, ?selected, ?idle, ?conversation⟩
  case wf => simpa using hwf
  case memory => simpa using State.perform_canonical (s := { s with pend := rest }) hmem a
  case held => simpa using hheld
  case txn => simpa [wtxn] using htxn
  case selected => simpa [wtxn, wscs] using hsel
  case idle =>
    intro ended
    have hrest : rest = [] := by simpa [hp] using ended
    subst hrest
    simpa [bracketed, wscs, wsclk, wtxn, and_assoc] using hb
  case conversation =>
    intro more
    have hrest : rest ≠ [] := by simpa [hp] using more
    exact ⟨by simpa using hrest, by simpa [wscs, wsclk, wtxn] using hb⟩

/-- An open conversation, in HW mode with its transaction, transfers bytes (R160, R162). -/
theorem State.canTransfer_of_open (hp : s.phase = .conversation) (hscs : s.scs = true)
    (h : s.cfg.mode = .sw ∨ s.txnOpen = true) : s.canTransfer = true := by
  refine State.canTransfer_iff.2 ⟨hp, hscs, ?_⟩
  cases hm : s.cfg.mode with
  | sw => exact .inl rfl
  | hw =>
    have hopen : s.txnOpen = true := h.resolve_left (by rw [hm]; exact Mode.noConfusion)
    exact .inr (by simp [State.txnOpenBit, modeBit_eq, hm, hopen])

/-- A byte that may be transferred is begun: the clock is low and 24 actions are left (R161). -/
theorem sendByte_ready {b : Byte} (h : s.canTransfer = true) :
    sendByte b s = .next (State.observePins { s with sclk := false, pend := (xfer b).tail.map Item.act ++ s.pend }) :=
  (if_pos h).trans (congrArg Host.Outcome.next (State.advance_xfer s b))

/-- A byte at the head of an open conversation's PEND is met with SCS high and SCLK low, decodes, and may be transferred
(R160, R162). -/
theorem State.byteHead_ready {k : WireKind} {b : Byte} {rest : List Item} (hs : s.inv = true)
    (hp : s.phase = .conversation) (hl : s.pend = .byte k b :: rest) :
    s.scs = true ∧ s.sclk = false ∧ s.canTransfer = true ∧ (∃ i, decode (.wire k b) = .ok i) ∧
    bracketed s.cfg true false s.txnOpen rest = true := by
  obtain ⟨-, -, -, -, hsel, -, hopen⟩ := s.inv_iff.1 hs
  have hb := (hopen hp).2
  rw [hl] at hb
  simp only [bracketed, Bool.and_eq_true, Bool.not_eq_true'] at hb
  obtain ⟨⟨⟨hscs, hsclk⟩, hsend⟩, hb⟩ := hb
  refine ⟨hscs, hsclk, State.canTransfer_of_open hp hscs ?mode, ?decodes, by simpa [hscs, hsclk] using hb⟩
  case mode =>
    cases hm : s.cfg.mode with
    | sw => exact .inl rfl
    | hw => exact .inr (hsel hm hscs)
  case decodes =>
    unfold sendable at hsend
    split at hsend
    · exact ⟨_, by assumption⟩
    · exact absurd hsend Bool.false_ne_true

/-- Handing a byte to the engine keeps the invariant: its actions leave the bracket as it was (R161). -/
theorem State.byteHead_inv {k : WireKind} {b : Byte} {rest : List Item} (hs : s.inv = true)
    (hp : s.phase = .conversation) (hl : s.pend = .byte k b :: rest) :
    (State.observePins { s with sclk := false, pend := (xfer b).tail.map Item.act ++ rest }).inv = true := by
  obtain ⟨hwf, hmem, hheld, htxn, hsel, -, -⟩ := s.inv_iff.1 hs
  obtain ⟨hscs, -, -, -, hb⟩ := State.byteHead_ready hs hp hl
  refine (State.inv_iff _).2 ⟨hwf, hmem, hheld, htxn, hsel, fun idle => Phase.noConfusion (hp.symm.trans idle), fun _ => ?_⟩
  refine ⟨by simp [xfer, xferBit], ?_⟩
  simpa [hscs] using (bracketed_xfer_tail s.cfg b s.txnOpen rest).trans hb

/-! ### A whole step -/

/-- Reset gives the reset state of the configuration but for inputs, counters and history, which the invariant does not read (R280). -/
theorem State.applyReset_inv (hs : s.inv = true) : s.applyReset.inv = true :=
  State.resetOf_inv (s.inv_iff.1 hs).1

/-- Settles O43: the cases of a step; `State.tick` and a raise change nothing that the invariant reads. -/
theorem everyStepKeepsTheInvariant : Obligations.EveryStepKeepsTheInvariant := by
  intro s t hs h
  rcases step_cases h with ⟨-, rfl⟩ | ⟨-, -, -, rfl⟩ | ⟨w, rest, i, -, hp, -, hd, he⟩ |
    ⟨_, _, _, -, -, -, -, rfl⟩ | ⟨-, hp, hl, -⟩ | ⟨a, rest, -, hp, hl, rfl⟩ | ⟨k, b, rest, i, -, hp, hl, hd, he⟩
  · exact State.applyReset_inv (s := s.tick) hs
  · exact hs
  · exact exec_host_inv (s := { s.tick with cmds := rest }) (isHostCommand_decode hd) hp hs he
  · exact hs
  · obtain ⟨-, -, -, -, -, -, hopen⟩ := s.inv_iff.1 hs
    exact absurd hl (hopen hp).1
  · exact State.performHead_inv (s := s.tick) hs hp hl
  · obtain ⟨hi, hb⟩ := itemByte_decode hd
    rw [(exec_wire_next hi he).2, hb]
    exact State.byteHead_inv (s := s.tick) hs hp hl

/-! ### Every step has a next state -/

/-- A conversation command answers in every state: it opens, or it raises (R195). -/
theorem exec_conversation_answers (hc : i.opensConversation = true) : ∃ t, exec i s = .next t := by
  cases hinit : s.inited with
  | false => exact ⟨_, exec_of_not_inited (needsInit_of_opensConversation hc) hinit⟩
  | true =>
    by_cases held : s.cfg.mode = .hw → s.spiHeld = true
    · exact ⟨_, exec_conversation_ready hc (State.transportReady_of_held hinit held)⟩
    · obtain ⟨hm, hh⟩ := Classical.not_imp.1 held
      exact ⟨_, exec_of_released hc hinit hm (eq_false_of_ne_true hh)⟩

/-- Every host command answers on a well-formed configuration: a located pixel's byte exists (R68, R251). -/
theorem exec_host_answers (hi : i.isHostCommand = true) (hw : s.cfg.wf = true) : ∃ t, exec i s = .next t := by
  by_cases raises : i.needsInit = true ∧ s.inited = false
  · exact ⟨_, exec_of_not_inited raises.1 raises.2⟩
  · have ready : i.needsInit = true → s.inited = true := by simpa using raises
    cases i with
    | init | rdStat => exact ⟨_, rfl⟩
    | shutdown | setRot | clearBuf | getDim => exact ⟨_, requireInit_ready (ready rfl)⟩
    | setPixel x y v =>
      cases hp : pixelLoc s.cfg s.rot x y with
      | none => exact ⟨_, exec_setPixel_outOfRange v (ready rfl) hp⟩
      | some p => exact ⟨_, execSetPixel_ready (ready rfl) hp (pixelLoc_lt hw hp)⟩
    | getPixel x y =>
      cases hp : pixelLoc s.cfg s.rot x y with
      | none => exact ⟨_, exec_getPixel_outOfRange (ready rfl) hp⟩
      | some p => exact ⟨_, execGetPixel_ready (ready rfl) hp (pixelLoc_lt hw hp)⟩
    | refresh | clearDisp | vcomTog => exact exec_conversation_answers rfl
    | wireCmdWrite | wireCmdClear | wireLineAddr | wireData | wireZero => exact absurd hi Bool.false_ne_true

/-- The step that meets a byte performs the first of its actions and leaves the others (R160, R161; log 11). -/
theorem step_byte_begins {k : WireKind} {b : Byte} {rest : List Item} (hr : s.rstLevel = false)
    (hp : s.phase = .conversation) (hl : s.pend = .byte k b :: rest) (hd : decode (.wire k b) = .ok i)
    (htransfer : s.canTransfer = true) :
    step s = .next (State.observePins { s.tick with sclk := false, pend := (xfer b).tail.map Item.act ++ rest }) := by
  obtain ⟨hi, hb⟩ := itemByte_decode hd
  rw [step_byte hr hp hl hd, exec_wire hi, hb]
  exact sendByte_ready (s := { s.tick with pend := rest }) htransfer

/-- Settles O44: each situation of a step has its answer; a byte in PEND decodes and may be transferred by the bracket. -/
theorem controllerNeverStops : Obligations.ControllerNeverStops := by
  intro s hs
  cases hr : s.rstLevel with
  | true => exact ⟨_, step_reset hr⟩
  | false =>
    cases hp : s.phase with
    | idle =>
      cases hc : s.cmds with
      | nil => exact ⟨_, step_idle hr hp hc⟩
      | cons w rest =>
        cases hd : decode (.host w) with
        | error e => exact ⟨_, step_illegal hr hp hc hd⟩
        | ok i =>
          rw [step_command hr hp hc hd]
          exact exec_host_answers (isHostCommand_decode hd) (s.inv_iff.1 hs).1
    | conversation =>
      cases hl : s.pend with
      | nil =>
        obtain ⟨-, -, -, -, -, -, hopen⟩ := s.inv_iff.1 hs
        exact absurd hl (hopen hp).1
      | cons x rest =>
        cases x with
        | act a => exact ⟨_, step_action hr hp hl⟩
        | byte k b =>
          obtain ⟨-, -, htransfer, ⟨i, hd⟩, -⟩ := State.byteHead_ready hs hp hl
          exact ⟨_, step_byte_begins hr hp hl hd htransfer⟩

end Sys2Proof.Machine
end

section
/-! The rotation transform as a bijection (R134), the bit location (R135), and the laws of R141 that rest on them. -/

namespace Sys2Proof.Machine

variable {c : Config} {rot r : RotState} {s t : State} {x y x2 y2 : CoordField} {v : Bool} {a k : Nat}

/-! ### The transform and its inverse -/

/-- Mirroring a coordinate twice gives it back (R134). -/
theorem mirror_mirror {n k : Nat} (h : k < n) : n - 1 - (n - 1 - k) = k := Nat.sub_sub_self (Nat.le_sub_one_of_lt h)

/-- `phys` maps the logical pixels into the physical ones (R134 (a)). -/
theorem phys_lt {x y : Nat} (hx : x < logicalWidth c rot) (hy : y < logicalHeight c rot) :
    (phys c rot x y).1 < c.width ∧ (phys c rot x y).2 < c.height := by
  rcases rot.cases with rfl | rfl | rfl | rfl
  · exact ⟨hx, hy⟩
  · exact ⟨Nat.sub_one_sub_lt hy, hx⟩
  · exact ⟨Nat.sub_one_sub_lt hx, Nat.sub_one_sub_lt hy⟩
  · exact ⟨hy, Nat.sub_one_sub_lt hx⟩

/-- `physInv` maps the physical pixels into the logical ones (R134 (b)). -/
theorem physInv_lt {x' y' : Nat} (hx : x' < c.width) (hy : y' < c.height) :
    (physInv c rot x' y').1 < logicalWidth c rot ∧ (physInv c rot x' y').2 < logicalHeight c rot := by
  rcases rot.cases with rfl | rfl | rfl | rfl
  · exact ⟨hx, hy⟩
  · exact ⟨hy, Nat.sub_one_sub_lt hx⟩
  · exact ⟨Nat.sub_one_sub_lt hx, Nat.sub_one_sub_lt hy⟩
  · exact ⟨Nat.sub_one_sub_lt hy, hx⟩

/-- `physInv` undoes `phys` on the logical pixels (R134 (b)). -/
theorem physInv_phys {x y : Nat} (hx : x < logicalWidth c rot) (hy : y < logicalHeight c rot) :
    physInv c rot (phys c rot x y).1 (phys c rot x y).2 = (x, y) := by
  rcases rot.cases with rfl | rfl | rfl | rfl
  · rfl
  · exact Prod.ext rfl (mirror_mirror hy)
  · exact Prod.ext (mirror_mirror hx) (mirror_mirror hy)
  · exact Prod.ext (mirror_mirror hx) rfl

/-- `phys` undoes `physInv` on the physical pixels (R134 (b)). -/
theorem phys_physInv {x' y' : Nat} (hx : x' < c.width) (hy : y' < c.height) :
    phys c rot (physInv c rot x' y').1 (physInv c rot x' y').2 = (x', y') := by
  rcases rot.cases with rfl | rfl | rfl | rfl
  · rfl
  · exact Prod.ext (mirror_mirror hx) rfl
  · exact Prod.ext (mirror_mirror hx) (mirror_mirror hy)
  · exact Prod.ext rfl (mirror_mirror hy)

/-- Settles O10: the bounds and the two cancellation laws, under each rotation. -/
theorem rotationIsABijection : Obligations.RotationIsABijection := fun _ _ =>
  ⟨fun _ _ hx hy => ⟨(phys_lt hx hy).1, (phys_lt hx hy).2, physInv_phys hx hy⟩,
    fun _ _ hx hy => ⟨(physInv_lt hx hy).1, (physInv_lt hx hy).2, phys_physInv hx hy⟩⟩

/-! ### The bit location -/

/-- The location by rows of `B` bytes, a row's bits being whole bytes (R135). -/
theorem loc_eq_of_rows (hw : c.wf = true) (x y : Nat) :
    loc c rot x y = ((phys c rot x y).2 * c.rowBytes + (phys c rot x y).1 / 8, (phys c rot x y).1 % 8) := by
  have bits : (phys c rot x y).2 * c.width = 8 * ((phys c rot x y).2 * c.rowBytes) := by
    rw [c.width_eq hw, Nat.mul_left_comm]
  unfold loc bitIndex
  rw [bits]
  exact Prod.ext (Nat.mul_add_div (by decide) _ _) (Nat.mul_add_mod _ _ _)

/-- The byte of an in-range pixel is in the buffer (R135, R68). -/
theorem loc_lt (hw : c.wf = true) {x y : Nat} (hx : x < logicalWidth c rot) (hy : y < logicalHeight c rot) :
    (loc c rot x y).1 < c.fbSize := by
  obtain ⟨hcol, hrow⟩ := phys_lt hx hy
  have inRow : (phys c rot x y).1 / 8 < c.rowBytes := by
    rw [c.width_eq hw] at hcol
    exact Nat.div_lt_of_lt_mul hcol
  rw [loc_eq_of_rows hw, c.fbSize_eq hw]
  calc (phys c rot x y).2 * c.rowBytes + (phys c rot x y).1 / 8
    _ < ((phys c rot x y).2 + 1) * c.rowBytes := by rw [Nat.succ_mul]; exact Nat.add_lt_add_left inRow _
    _ ≤ c.height * c.rowBytes := Nat.mul_le_mul_right _ hrow

/-- Settles O11: the bit index is R135's first form; the second counts by rows. -/
theorem pixelLocationStaysInTheBuffer : Obligations.PixelLocationStaysInTheBuffer :=
  fun _ _ x y hw hx hy => ⟨rfl, loc_eq_of_rows hw x y, loc_lt hw hx hy⟩

/-- The byte address and the bit number determine the bit index (R135). -/
theorem bitIndex_of_loc (c : Config) (rot : RotState) (x y : Nat) :
    8 * (loc c rot x y).1 + (loc c rot x y).2 = bitIndex c (phys c rot x y) :=
  Nat.div_add_mod ..

/-- The bit index determines the physical pixel (R61). -/
theorem bitIndex_inj {p q : Nat × Nat} (hp : p.1 < c.width) (hq : q.1 < c.width)
    (h : bitIndex c p = bitIndex c q) : p = q := by
  have positive : 0 < c.width := Nat.zero_lt_of_lt hp
  have column : ∀ {u : Nat × Nat}, u.1 < c.width → bitIndex c u % c.width = u.1 := fun hu => by
    rw [bitIndex, Nat.mul_add_mod', Nat.mod_eq_of_lt hu]
  have row : ∀ {u : Nat × Nat}, u.1 < c.width → bitIndex c u / c.width = u.2 := fun hu => by
    rw [bitIndex, Nat.add_comm, Nat.add_mul_div_right _ _ positive, Nat.div_eq_of_lt hu, Nat.zero_add]
  exact Prod.ext (by rw [← column hp, h, column hq]) (by rw [← row hp, h, row hq])

/-- Two in-range pixels at one location are one pixel (R134, R135). -/
theorem loc_inj {x y x2 y2 : Nat} (hx : x < logicalWidth c rot) (hy : y < logicalHeight c rot)
    (hx2 : x2 < logicalWidth c rot) (hy2 : y2 < logicalHeight c rot) (h : loc c rot x y = loc c rot x2 y2) :
    (x, y) = (x2, y2) := by
  have sameBit : bitIndex c (phys c rot x y) = bitIndex c (phys c rot x2 y2) := by
    rw [← bitIndex_of_loc, ← bitIndex_of_loc, h]
  have samePixel := bitIndex_inj (phys_lt hx hy).1 (phys_lt hx2 hy2).1 sameBit
  rw [← physInv_phys hx hy, samePixel, physInv_phys hx2 hy2]

/-! ### The coordinate fields -/

/-- A field that is not negative is read as the number of its bits (R94). -/
theorem toInt_eq_toNat {f : CoordField} (h : 0 ≤ f.toInt) : f.toInt = f.toNat :=
  BitVec.toInt_eq_toNat_of_lt (BitVec.toInt_pos_iff.1 h)

/-- Fields in range name the location of their numbers (R132, R135). -/
theorem pixelLoc_eq_loc (h : (pixelLoc c rot x y).isSome = true) :
    x.toNat < logicalWidth c rot ∧ y.toNat < logicalHeight c rot ∧
    pixelLoc c rot x y = some (loc c rot x.toNat y.toNat) := by
  obtain ⟨p, hp⟩ := Option.isSome_iff_exists.1 h
  obtain ⟨hx0, hx, hy0, hy, rfl⟩ := pixelLoc_some hp
  rw [toInt_eq_toNat hx0, toInt_eq_toNat hy0, Int.toNat_natCast, Int.toNat_natCast] at hp
  rw [toInt_eq_toNat hx0] at hx
  rw [toInt_eq_toNat hy0] at hy
  exact ⟨Int.ofNat_lt.1 hx, Int.ofNat_lt.1 hy, hp⟩

/-- A number below the logical dimensions is not negative as a field (R6, R94). -/
theorem toInt_ofNat_of_le {n : Nat} (h : n ≤ 32760) : (BitVec.ofNat 16 n).toInt = n := by
  have hn : (BitVec.ofNat 16 n).toNat = n := by
    rw [BitVec.toNat_ofNat]
    exact Nat.mod_eq_of_lt (by omega)
  rw [BitVec.toInt_eq_toNat_of_lt (by omega), hn]

/-- The numbers of an in-range pixel, put into fields, name its location (R132, R135). -/
theorem pixelLoc_ofNat (hw : c.wf = true) {x y : Nat} (hx : x < logicalWidth c rot) (hy : y < logicalHeight c rot) :
    pixelLoc c rot (BitVec.ofNat 16 x) (BitVec.ofNat 16 y) = some (loc c rot x y) := by
  obtain ⟨hwidth, hheight⟩ := logicalDims_le hw rot
  have vx := toInt_ofNat_of_le (hx.le.trans hwidth)
  have vy := toInt_ofNat_of_le (hy.le.trans hheight)
  simp [pixelLoc, inRange, coordValue, vx, vy, hx, hy]

/-- Two pairs of fields at one location are equal. -/
theorem pixelLoc_inj (h : (pixelLoc c rot x y).isSome = true) (h2 : (pixelLoc c rot x2 y2).isSome = true)
    (same : pixelLoc c rot x2 y2 = pixelLoc c rot x y) : (x2, y2) = (x, y) := by
  obtain ⟨hx, hy, hp⟩ := pixelLoc_eq_loc h
  obtain ⟨hx2, hy2, hp2⟩ := pixelLoc_eq_loc h2
  rw [hp, hp2] at same
  obtain ⟨ex, ey⟩ := Prod.mk.inj (loc_inj hx2 hy2 hx hy (Option.some.inj same))
  exact Prod.ext (BitVec.eq_of_toNat_eq ex) (BitVec.eq_of_toNat_eq ey)

/-! ### The laws of R141 -/

/-- SETPIXEL of a located pixel: what is stored, and that the registers GETPIXEL and SETROT read are as before (R138). -/
theorem exec_setPixel_located (x y : CoordField) (v : Bool) (hw : s.cfg.wf = true) (hi : s.inited = true)
    (hp : pixelLoc s.cfg s.rot x y = some (a, k)) :
    ∃ t, exec (.setPixel x y v) s = .next t ∧ t.cfg = s.cfg ∧ t.rot = s.rot ∧ t.inited = true ∧
      ∀ a' k', k' < 8 → (t.byteAt a').getLsbD k' = if a' = a ∧ k' = k then v else (s.byteAt a').getLsbD k' := by
  obtain ⟨t, he, ht, bits⟩ := (setPixelWritesOneBit s x y v hw).1 a k hi hp
  have hcfg : t.cfg = s.cfg := by rw [ht]; rfl
  have hrot : t.rot = s.rot := by rw [ht]; rfl
  have hinit : t.inited = s.inited := by rw [ht]; rfl
  exact ⟨t, he, hcfg, hrot, hinit.trans hi, bits⟩

/-- GETPIXEL of a located pixel answers its bit without a fault (R139, R95). -/
theorem exec_getPixel_located (hw : s.cfg.wf = true) (hi : s.inited = true)
    (hp : pixelLoc s.cfg s.rot x y = some (a, k)) :
    ∃ t, exec (.getPixel x y) s = .next t ∧ rspErr t.rsp = 0#2 ∧
      rspData t.rsp = if (s.byteAt a).getLsbD k then 1#32 else 0#32 :=
  ⟨_, (getPixelReadsOneBit s x y hw).1 a k hi hp, rspErr_responseWord _ _, rspData_responseWord _ _⟩

/-- Settles O12: both commands find the same bit, which is the one that was set. -/
theorem setThenGetReturnsTheValue : Obligations.SetThenGetReturnsTheValue := by
  intro s x y v hw hi hsome
  obtain ⟨⟨a, k⟩, hp⟩ := Option.isSome_iff_exists.1 hsome
  obtain ⟨t, hset, hcfg, hrot, hinit, bits⟩ := exec_setPixel_located x y v hw hi hp
  obtain ⟨u, hget, herr, hdata⟩ := exec_getPixel_located (hcfg ▸ hw) hinit (hcfg.symm ▸ hrot.symm ▸ hp)
  have bit : (t.byteAt a).getLsbD k = v := (bits a k (pixelLoc_bit hp)).trans (if_pos ⟨rfl, rfl⟩)
  exact ⟨t, u, hset, hget, herr, by rw [hdata, bit]⟩

/-- Settles O13: every bit of a cleared byte is 1, and SETROT leaves the buffer. -/
theorem clearedBufferReadsInactive : Obligations.ClearedBufferReadsInactive := by
  intro s r x y hw hi hsome
  obtain ⟨⟨a, k⟩, hp⟩ := Option.isSome_iff_exists.1 hsome
  have cleared : s.clearBuffer.byteAt a = 0xFF#8 := s.byteAt_clearBuffer a (pixelLoc_lt hw hp)
  have ones : ∀ k < 8, (0xFF#8).getLsbD k = true := by decide
  obtain ⟨z, hget, herr, hdata⟩ :=
    exec_getPixel_located (s := State.respond { s.clearBuffer.respond 0#32 with rot := r } 0#32) hw hi hp
  refine ⟨_, _, z, exec_clearBuf hi, exec_setRot r hi, hget, herr, ?_⟩
  rw [hdata]
  exact if_pos ((congrArg (·.getLsbD k) cleared).trans (ones k (pixelLoc_bit hp)))

/-- Settles O14: another pixel is at another location, whose bit SETPIXEL leaves. -/
theorem setPixelLeavesOtherPixels : Obligations.SetPixelLeavesOtherPixels := by
  intro s x y x2 y2 v hw hi hsome hsome2 other
  obtain ⟨⟨a, k⟩, hp⟩ := Option.isSome_iff_exists.1 hsome
  obtain ⟨⟨a2, k2⟩, hp2⟩ := Option.isSome_iff_exists.1 hsome2
  have apart : ¬(a2 = a ∧ k2 = k) := by
    rintro ⟨rfl, rfl⟩
    exact other (pixelLoc_inj hsome hsome2 (hp2.trans hp.symm))
  obtain ⟨t, hset, hcfg, hrot, hinit, bits⟩ := exec_setPixel_located x y v hw hi hp
  refine ⟨t, _, _, hset, (getPixelReadsOneBit t x2 y2 (hcfg ▸ hw)).1 a2 k2 hinit (hcfg.symm ▸ hrot.symm ▸ hp2),
    (getPixelReadsOneBit s x2 y2 hw).1 a2 k2 hi hp2, ?_⟩
  rw [bits a2 k2 (pixelLoc_bit hp2), if_neg apart]
  rfl

/-- The location of the logical pixel that another rotation gives to a physical one (R134, R141 (e)). -/
theorem loc_physInv {x' y' : Nat} (hx : x' < c.width) (hy : y' < c.height) :
    loc c r (physInv c r x' y').1 (physInv c r x' y').2 = (bitIndex c (x', y') / 8, bitIndex c (x', y') % 8) := by
  unfold loc
  rw [phys_physInv hx hy]

/-- Settles O15: `physInv` names the same physical pixel, so the same bit, under the other rotation. -/
theorem pixelIsFoundUnderEveryRotation : Obligations.PixelIsFoundUnderEveryRotation := by
  intro s r x y v hw hi hsome p q
  obtain ⟨hx, hy, hp⟩ := pixelLoc_eq_loc hsome
  obtain ⟨hcol, hrow⟩ := phys_lt hx hy
  obtain ⟨hqx, hqy⟩ := physInv_lt (rot := r) hcol hrow
  have hq : pixelLoc s.cfg r (BitVec.ofNat 16 q.1) (BitVec.ofNat 16 q.2) = some (loc s.cfg s.rot x.toNat y.toNat) :=
    (pixelLoc_ofNat hw hqx hqy).trans (congrArg some (loc_physInv hcol hrow))
  generalize loc s.cfg s.rot x.toNat y.toNat = l at hp hq
  obtain ⟨a, k⟩ := l
  obtain ⟨t, hset, hcfg, -, hinit, bits⟩ := exec_setPixel_located x y v hw hi hp
  obtain ⟨z, hget, herr, hdata⟩ :=
    exec_getPixel_located (s := State.respond { t with rot := r } 0#32) (hcfg ▸ hw) hinit (hcfg.symm ▸ hq)
  have bit : (t.byteAt a).getLsbD k = v := (bits a k (pixelLoc_bit hp)).trans (if_pos ⟨rfl, rfl⟩)
  exact ⟨t, _, z, hset, exec_setRot r hinit, hget, herr,
    hdata.trans (congrArg (fun b : Bool => if b then 1#32 else 0#32) bit)⟩

end Sys2Proof.Machine
end

section
/-! Frames: what each instruction leaves unchanged, and that a command waits while a conversation is open (R41). -/

namespace Sys2Proof.Machine

variable {s t : State} {i : Instr}

/-! ### The commands that only read -/

/-- GETDIM, GETPIXEL and RDSTAT respond, or they raise for want of INITED, which RDSTAT does not need (R234). -/
theorem exec_read_next (hi : i = .getDim ∨ i = .rdStat ∨ ∃ x y, i = .getPixel x y) (h : exec i s = .next t) :
    (∃ d, t = s.respond d) ∨ (s.inited = false ∧ i ≠ .rdStat ∧ t = s.raise .notInitialized) := by
  rcases hi with rfl | rfl | ⟨x, y, rfl⟩
  · rcases requireInit_next h with ⟨-, done⟩ | ⟨hn, rfl⟩
    · exact .inl ⟨_, (Host.Outcome.next.inj done).symm⟩
    · exact .inr ⟨hn, Instr.noConfusion, rfl⟩
  · exact .inl ⟨_, (Host.Outcome.next.inj h).symm⟩
  · rcases execGetPixel_next h with ⟨hn, rfl⟩ | ⟨-, -, rfl⟩ | ⟨_, _, -, -, -, rfl⟩
    · exact .inr ⟨hn, Instr.noConfusion, rfl⟩
    · exact .inl ⟨_, rfl⟩
    · exact .inl ⟨_, rfl⟩

/-- Settles O30: a response writes the response port, a raise FAULT too. -/
theorem readCommandsFrame : Obligations.ReadCommandsFrame := by
  intro i s t hi h
  rcases exec_read_next hi h with ⟨d, rfl⟩ | ⟨hn, hne, rfl⟩
  · exact ⟨rfl, fun _ => rfl, fun _ => rfl⟩
  · refine ⟨rfl, fun ready => ?_, fun _ => rfl⟩
    rcases ready with hinit | rfl
    · exact absurd (hn.symm.trans hinit) Bool.false_ne_true
    · exact absurd rfl hne

/-! ### INIT, SHUTDOWN and SETROT -/

/-- Sampling INIT_OK takes an answer off its stream or counts a draw (R37, log 7). -/
theorem State.sampleInitOk_frame (s : State) :
    s.sampleInitOk.2 = { s with initOkIn := s.sampleInitOk.2.initOkIn, draws := s.sampleInitOk.2.draws } := by
  unfold State.sampleInitOk
  split
  · rfl
  · rfl

/-- What INIT leaves (R231). -/
theorem exec_init_frame (h : exec .init s = .next t) :
    t = { s with scs := t.scs, sclk := t.sclk, vcom := t.vcom, inited := t.inited, spiHeld := t.spiHeld,
                 initOkIn := t.initOkIn, draws := t.draws, rspValid := t.rspValid, rsp := t.rsp, trace := t.trace } := by
  cases hm : s.cfg.mode with
  | sw =>
    obtain rfl := Host.Outcome.next.inj ((exec_init_sw hm).symm.trans h)
    rfl
  | hw =>
    obtain rfl := Host.Outcome.next.inj ((exec_init_hw hm).symm.trans h)
    unfold State.initWith
    rw [s.sampleInitOk_frame]
    split
    · rfl
    · rfl

/-- What SHUTDOWN leaves (R232). -/
theorem exec_shutdown_frame (h : exec .shutdown s = .next t) :
    t = { s with spiHeld := t.spiHeld, fault := t.fault, rspValid := t.rspValid, rsp := t.rsp, trace := t.trace } ∧
    (s.inited = true → t.fault = s.fault) := by
  rcases requireInit_next h with ⟨-, done⟩ | ⟨hn, rfl⟩
  · cases done
    exact ⟨rfl, fun _ => rfl⟩
  · exact ⟨rfl, fun hinit => absurd (hn.symm.trans hinit) Bool.false_ne_true⟩

/-- What SETROT leaves (R136). -/
theorem exec_setRot_frame {r : RotState} (h : exec (.setRot r) s = .next t) :
    t = { s with rot := t.rot, fault := t.fault, rspValid := t.rspValid, rsp := t.rsp, trace := t.trace } ∧
    (s.inited = true → t.fault = s.fault) := by
  rcases requireInit_next h with ⟨-, done⟩ | ⟨hn, rfl⟩
  · cases done
    exact ⟨rfl, fun _ => rfl⟩
  · exact ⟨rfl, fun hinit => absurd (hn.symm.trans hinit) Bool.false_ne_true⟩

/-- Settles O31: the three frames, none of which names the buffer or the configuration. -/
theorem controlCommandsFrame : Obligations.ControlCommandsFrame := by
  intro s t
  refine ⟨fun h => ?init, fun h => ?shutdown, fun r h => ?setRot⟩
  case init =>
    have frame := exec_init_frame h
    exact ⟨frame, fun a => by rw [frame]; rfl⟩
  case shutdown =>
    obtain ⟨frame, hfault⟩ := exec_shutdown_frame h
    exact ⟨frame, hfault, fun a => by rw [frame]; rfl⟩
  case setRot =>
    obtain ⟨frame, hfault⟩ := exec_setRot_frame h
    exact ⟨frame, hfault, fun a => by rw [frame]; rfl⟩

/-- Where the stream of INIT_OK answers has ended the sample is a free value, and one draw is counted (log 7). -/
theorem State.sampleInitOk_nil (ha : s.initOkIn = []) :
    s.sampleInitOk = (Config.freeInitOk s.draws, { s with draws := s.draws + 1 }) := by
  rw [State.sampleInitOk, ha]

/-- Settles O25: INIT's two outcomes in HW mode, by the value that is drawn. -/
theorem initDrawsAFreeAnswer : Obligations.InitDrawsAFreeAnswer := by
  intro s hm ha
  have answer := exec_init_hw hm
  rw [State.sampleInitOk_nil ha] at answer
  cases drawn : Config.freeInitOk s.draws with
  | true =>
    rw [drawn] at answer
    exact ⟨_, answer, rfl, rfl, if_pos hm, rfl, rfl, rfl, rfl, rfl, rfl⟩
  | false =>
    rw [drawn] at answer
    exact ⟨_, answer, rfl, rfl, if_pos hm, rfl, rfl, rfl, rfl, rfl, rfl⟩

/-! ### SETPIXEL and CLEARBUF -/

/-- Where no byte exists a read is refused, whatever is stored (R60). -/
theorem State.memRead_beyond {a : Nat} (h : s.cfg.fbSize ≤ a) : s.memRead a = .error (.noSuchAddress a) :=
  if_neg (Nat.not_lt.2 h)

/-- Settles O32: a raise and an out-of-range SETPIXEL store nothing, SETPIXEL in range stores one byte, and CLEARBUF lists cells
below N only, beyond which every read is refused. -/
theorem storingCommandsFrame : Obligations.StoringCommandsFrame := by
  refine ⟨fun x y v s t h => ?setPixel, fun s t h => ?clearBuf⟩
  case setPixel =>
    rcases execSetPixel_next h with ⟨hn, rfl⟩ | ⟨-, -, rfl⟩ | ⟨a, k, hi, hp, -, rfl⟩
    · exact ⟨rfl, fun hi => absurd (hn.symm.trans hi) Bool.false_ne_true, fun _ _ => rfl, fun _ _ _ _ _ => rfl⟩
    · exact ⟨rfl, fun _ => rfl, fun _ _ => rfl, fun _ _ _ _ _ => rfl⟩
    · refine ⟨rfl, fun _ => rfl, fun nothing => ?_, fun a' k' hp' b hb => ?_⟩
      · rcases nothing with hn | hnone
        · exact absurd (hn.symm.trans hi) Bool.false_ne_true
        · exact absurd (hnone.symm.trans hp) (Option.some_ne_none _).symm
      · obtain ⟨rfl, -⟩ := Prod.mk.inj (Option.some.inj (hp.symm.trans hp'))
        exact (Memory.read_write ..).trans (if_neg (Ne.symm hb))
  case clearBuf =>
    rcases requireInit_next h with ⟨hi, done⟩ | ⟨hn, rfl⟩
    · cases done
      refine ⟨rfl, fun _ => rfl, fun hn => absurd (hn.symm.trans hi) Bool.false_ne_true, fun b hb => ?_⟩
      exact (State.memRead_beyond (s := s.clearBuffer.respond 0#32) hb).trans (State.memRead_beyond hb).symm
    · exact ⟨rfl, fun hi => absurd (hn.symm.trans hi) Bool.false_ne_true, fun _ _ => rfl, fun _ _ => rfl⟩

/-! ### The conversation commands and the wire items -/

/-- Settles O33: a conversation command opens, or it raises. -/
theorem conversationCommandsFrame : Obligations.ConversationCommandsFrame := by
  intro i s t hc h
  rcases exec_conversation_next hc h with ⟨ready, rfl⟩ | ⟨refused, f, rfl⟩
  · exact ⟨.inl ⟨rfl, ready⟩, fun _ => rfl⟩
  · exact ⟨.inr ⟨rfl, refused⟩, fun _ => rfl⟩

/-- Settles O34: the byte's actions but the first go to the head of PEND. -/
theorem wireItemsFrame : Obligations.WireItemsFrame := by
  intro i s t hi h
  obtain ⟨-, rfl⟩ := exec_wire_next hi h
  exact ⟨rfl, ⟨(xfer (itemByte i)).tail, rfl, rfl⟩, fun _ => rfl⟩

/-- While a transaction is open all three pins are seen as they are driven, as in SW mode (R31, R32). -/
theorem State.pins_driven (h : s.cfg.mode = .sw ∨ s.txnOpen = true) : s.pins = ⟨s.scs, s.sclk, s.si⟩ := by
  refine if_neg fun free => ?_
  simp only [Bool.and_eq_true, decide_eq_true_eq, Bool.not_eq_true'] at free
  obtain ⟨hm, hclosed⟩ := free
  rcases h with hsw | hopen
  · exact Mode.noConfusion (hsw.symm.trans hm)
  · simp [State.txnOpenBit, modeBit_eq, hm, hopen] at hclosed

/-- In an open conversation a wire item is its byte begun (R161). -/
theorem exec_wire_open (hi : i.isHostCommand = false) (hp : s.phase = .conversation) (hscs : s.scs = true)
    (h : s.cfg.mode = .sw ∨ s.txnOpen = true) :
    exec i s = .next { s with sclk := false, pend := ((xfer (itemByte i)).tail.map Item.act) ++ s.pend,
                              trace := s.trace ++ [.pins ⟨true, false, s.si⟩] } := by
  have seen := State.pins_driven
    (s := { s with sclk := false, pend := (xfer (itemByte i)).tail.map Item.act ++ s.pend }) h
  rw [exec_wire hi, sendByte_ready (State.canTransfer_of_open hp hscs h), State.observePins, State.observe, seen]
  simp [hscs]

/-- Settles O28: each item by its byte. -/
theorem wireItemsEnterTheByteEngine : Obligations.WireItemsEnterTheByteEngine := by
  intro s v a d hp hscs h
  rw [← commandByte_write, ← commandByte_clear]
  exact ⟨exec_wire_open rfl hp hscs h, exec_wire_open rfl hp hscs h, exec_wire_open rfl hp hscs h,
    exec_wire_open rfl hp hscs h, exec_wire_open rfl hp hscs h⟩

/-- Settles O29: outside an open conversation `canTransfer` fails. -/
theorem wireItemOutsideConversationFaults : Obligations.WireItemOutsideConversationFaults := by
  intro i s hi outside
  rw [exec_wire hi]
  refine if_neg fun ready => ?_
  obtain ⟨hp, hscs, hopen⟩ := State.canTransfer_iff.1 ready
  rcases outside with idle | low | ⟨hm, hclosed⟩
  · exact Phase.noConfusion (idle.symm.trans hp)
  · exact Bool.false_ne_true (low.symm.trans hscs)
  · simp [State.txnOpenBit, hm, hclosed] at hopen

/-- Settles O35: the two steps that run an instruction, with `State.tick` written out. -/
theorem stepRunsTheDecodedInstruction : Obligations.StepRunsTheDecodedInstruction :=
  ⟨fun _ _ _ _ hr hp hc hd => step_command hr hp hc hd, fun _ _ _ _ _ hr hp hl hd => step_byte hr hp hl hd⟩

/-! ### A whole step -/

/-- Inside a conversation a step leaves the waiting words and every register but VCOM (R41). -/
theorem step_conversation_frame (hr : s.rstLevel = false) (hp : s.phase = .conversation) (h : step s = .next t) :
    t.cmds = s.cmds ∧ t.rot = s.rot ∧ t.inited = s.inited ∧ t.spiHeld = s.spiHeld ∧ t.fault = s.fault := by
  rcases step_conversation_next hr hp h with ⟨-, rfl⟩ | ⟨a, rest, -, rfl⟩ | ⟨b, rest, rfl⟩
  · simp
  · simp
  · exact ⟨rfl, rfl, rfl, rfl, rfl⟩

/-- Settles O37: `cmd_ready` is PHASE, and a reset keeps the words too. -/
theorem commandsAreHeldWhileOpen : Obligations.CommandsAreHeldWhileOpen := by
  intro s t hp h
  refine ⟨by simp [State.cmdReady, hp], ?_, fun hr => (step_conversation_frame hr hp h).2⟩
  cases hr : s.rstLevel with
  | true => rw [step_reset_next hr h]; rfl
  | false => exact (step_conversation_frame hr hp h).1

/-- A host command that changes the buffer is CLEARBUF or SETPIXEL (R69). -/
theorem exec_host_fb (hi : i.isHostCommand = true) (h : exec i s = .next t) :
    t.fb = s.fb ∨ i = .clearBuf ∨ ∃ x y v, i = .setPixel x y v := by
  cases hc : i.opensConversation with
  | true =>
    rcases exec_conversation_next hc h with ⟨-, rfl⟩ | ⟨-, f, rfl⟩
    · exact .inl rfl
    · exact .inl rfl
  | false =>
    obtain ⟨-, -, -, -, -, hfb⟩ := exec_host_writes hi hc h
    exact hfb

/-- The step that accepts a word changes the buffer by CLEARBUF or SETPIXEL only (R69). -/
theorem step_accept_fb {w : HostWord} {rest : List HostWord} (hr : s.rstLevel = false) (hp : s.phase = .idle)
    (hc : s.cmds = w :: rest) (h : step s = .next t) :
    t.fb = s.fb ∨ decode (.host w) = .ok .clearBuf ∨ ∃ x y v, decode (.host w) = .ok (.setPixel x y v) := by
  rcases step_accept_next hr hp hc h with ⟨i, hd, he⟩ | rfl
  · rcases exec_host_fb (isHostCommand_decode hd) he with kept | rfl | ⟨x, y, v, rfl⟩
    · exact .inl kept
    · exact .inr (.inl hd)
    · exact .inr (.inr ⟨x, y, v, hd⟩)
  · exact .inl rfl

/-- Inside a conversation only the FB_CLEAR action changes the buffer (R69, R196). -/
theorem step_conversation_fb (hr : s.rstLevel = false) (hp : s.phase = .conversation) (h : step s = .next t) :
    t.fb = s.fb ∨ ∃ rest, s.pend = .act .fbClear :: rest := by
  rcases step_conversation_next hr hp h with ⟨-, rfl⟩ | ⟨a, rest, hl, rfl⟩ | ⟨b, rest, rfl⟩
  · exact .inl (by simp)
  · by_cases ha : a = .fbClear
    · exact .inr ⟨rest, ha ▸ hl⟩
    · obtain ⟨-, -, -, -, -, hfb⟩ := State.perform_writes { s.tick with pend := rest } a
      exact .inl ((State.settle_fb _).trans (hfb.trans (if_neg ha)))
  · exact .inl rfl

/-- Settles O49: the situations of a step, each with the commands or the action that may store. -/
theorem bufferIsWrittenOnlyByItsCommands : Obligations.BufferIsWrittenOnlyByItsCommands := by
  intro s t h
  refine ⟨step_cfg h, fun changed => ?_⟩
  cases hr : s.rstLevel with
  | true => exact .inl rfl
  | false =>
    cases hp : s.phase with
    | idle =>
      cases hc : s.cmds with
      | nil => exact absurd (congrArg State.fb (step_idle_next hr hp hc h)) changed
      | cons w rest => exact .inr (.inl ⟨rfl, w, rest, rfl, (step_accept_fb hr hp hc h).resolve_left changed⟩)
    | conversation => exact .inr (.inr ⟨rfl, (step_conversation_fb hr hp h).resolve_left changed⟩)

end Sys2Proof.Machine
end

section
/-! The sequencer's step on an action (R40): what it does and what an observer sees of it (R14), and the runs that perform a list
of actions, the byte engine's 25 among them (R161). -/

namespace Sys2Proof.Machine

variable {s t : State} {a : Action} {rest : List Item}

/-! ### One action -/

/-- An action that occurs in its mode at all writes TXN_OPEN as in HW mode (R33). -/
theorem actTxn_of_occurs {m : Mode} (occurs : a = .txnBegin ∨ a = .txnEnd → m = .hw) (old : Bool) :
    actTxn m a old = actTxn .hw a old := by
  cases a with
  | txnBegin => rw [occurs (.inl rfl)]
  | txnEnd => rw [occurs (.inr rfl)]
  | _ => rfl

/-- Settles O36: `State.perform` writes the levels, `State.settle` PHASE and the response port. -/
theorem stepPerformsTheHeadAction : Obligations.StepPerformsTheHeadAction := by
  intro s a rest hr hp hl occurs
  obtain ⟨wscs, wsclk, wsi, wvcom, wtxn, wfb⟩ := State.perform_writes { s.tick with pend := rest } a
  refine ⟨_, step_action hr hp hl, by simp, ?scs, ?sclk, ?si, ?txn, ?vcom, ?cleared, ?kept, ?phase, ?valid, ?response,
    by simp, by simp, by simp, by simp, by simp⟩
  case scs => exact (State.settle_scs _).trans (wscs.trans (by cases a <;> rfl))
  case sclk => exact (State.settle_sclk _).trans (wsclk.trans (by cases a <;> rfl))
  case si => exact (State.settle_si _).trans (wsi.trans (by cases a <;> rfl))
  case txn => exact (State.settle_txnOpen _).trans (wtxn.trans ((actTxn_of_occurs occurs _).trans (by cases a <;> rfl)))
  case vcom => exact (State.settle_vcom _).trans (wvcom.trans (by cases a <;> rfl))
  case cleared =>
    rintro rfl b hb
    rw [State.byteAt_congr (State.settle_cfg _) (State.settle_fb _)]
    exact State.byteAt_clearBuffer _ b hb
  case kept => exact fun ha => (State.settle_fb _).trans (wfb.trans (if_neg ha))
  case phase => simp [hp]
  case valid => cases rest <;> simp
  case response =>
    rintro rfl
    simp [responseWord]

/-- What an observer sees of an action that leaves the given triple on the pins (R14). -/
def Action.seen (m : Mode) (p : Pins) : Action → List Obs
  | .cs _ => [.pins p]
  | .clk _ => [.pins p]
  | .dat _ => [.pins p]
  | .delay t => [.delay t]
  | .txnBegin => if m = .hw then [.txnBegin, .pins p] else []
  | .txnEnd => if m = .hw then [.txnEnd, .pins p] else []
  | .toggleVcom => []
  | .fbClear => []

/-- An action adds to the history what is seen of it (R14, log 16). -/
theorem State.perform_trace_eq (s : State) (a : Action) :
    (s.perform a).trace = s.trace ++ a.seen s.cfg.mode (s.perform a).pins := by
  cases a with
  | cs | clk | dat | delay => rfl
  | txnBegin | txnEnd =>
    by_cases hm : s.cfg.mode = .hw
    · simp only [State.perform, Action.seen, if_pos hm, State.observePins_trace, State.observe_trace, List.append_assoc]
      rfl
    · simp [State.perform, Action.seen, hm]
  | toggleVcom | fbClear => exact (List.append_nil _).symm

/-- Outside a transaction of HW mode SCLK and SI are free values (log 8). -/
theorem State.pins_free (hm : s.cfg.mode = .hw) (hclosed : s.txnOpen = false) :
    s.pins = ⟨s.scs, Config.freeSclk s.now, Config.freeSi s.now⟩ :=
  if_pos (by simp [hm, State.txnOpenBit, hclosed])

/-- Ending a conversation adds its response to the history (R35, R40). -/
theorem State.settle_trace_append (s : State) :
    s.settle.trace = s.trace ++ if s.pend = [] then [.response (responseWord 0#2 0#32)] else [] := by
  rw [State.settle_trace]
  split
  · rfl
  · exact (List.append_nil _).symm

/-- Settles O57: the action's observations, then the response if it was the last; the triple by mode and transaction. -/
theorem stepRecordsWhatIsSeen : Obligations.StepRecordsWhatIsSeen := by
  intro s a rest hr hp hl occurs
  refine ⟨_, step_action hr hp hl, ?trace, State.pins_scs _, fun h => State.pins_driven (by simpa using h),
    fun hm hclosed => State.pins_free (by simpa using hm) hclosed⟩
  case trace =>
    rw [State.settle_trace_append, State.perform_pend, State.perform_trace_eq, ← State.settle_pins]
    refine congrArg (· ++ _) (congrArg (s.trace ++ ·) ?_)
    cases a with
    | txnBegin => exact if_pos (occurs (.inl rfl))
    | txnEnd => exact if_pos (occurs (.inr rfl))
    | _ => rfl

/-! ### A list of actions -/

/-- What an action does to the state in a step of its own, PEND and the conversation's end apart. -/
def State.act (s : State) (a : Action) : State := s.tick.perform a

/-- A list of actions, one a step. -/
def State.performAll (s : State) (as : List Action) : State := as.foldl State.act s

@[simp] theorem State.performAll_nil (s : State) : s.performAll [] = s := rfl

@[simp] theorem State.performAll_cons (s : State) (a : Action) (as : List Action) :
    s.performAll (a :: as) = (s.act a).performAll as := rfl

theorem State.performAll_append (s : State) (as bs : List Action) :
    s.performAll (as ++ bs) = (s.performAll as).performAll bs :=
  List.foldl_append ..

/-- The state with another PEND. -/
def State.setPend (s : State) (p : List Item) : State := { s with pend := p }

@[simp] theorem State.setPend_pend (s : State) (p : List Item) : (s.setPend p).pend = p := rfl

@[simp] theorem State.setPend_trace (s : State) (p : List Item) : (s.setPend p).trace = s.trace := rfl

@[simp] theorem State.setPend_setPend (s : State) (p q : List Item) : (s.setPend p).setPend q = s.setPend q := rfl

theorem State.setPend_self (h : s.pend = rest) : s.setPend rest = s := by
  rw [← h]
  rfl

/-- No action reads PEND (R40). -/
theorem State.act_setPend (s : State) (p : List Item) (a : Action) : (s.setPend p).act a = (s.act a).setPend p := by
  cases a with
  | txnBegin | txnEnd =>
    change (if s.cfg.mode = .hw then _ else _) = State.setPend (if s.cfg.mode = .hw then _ else _) p
    split
    · rfl
    · rfl
  | _ => rfl

theorem State.performAll_setPend (as : List Action) (s : State) (p : List Item) :
    (s.setPend p).performAll as = (s.performAll as).setPend p := by
  induction as generalizing s with
  | nil => rfl
  | cons a as ih => rw [State.performAll_cons, State.act_setPend, ih, State.performAll_cons]

/-- What no action writes is as before after a list of them. -/
theorem State.performAll_keeps {α : Type} {f : State → α} (h : ∀ s a, f (State.act s a) = f s) (s : State)
    (as : List Action) : f (s.performAll as) = f s := by
  induction as generalizing s with
  | nil => rfl
  | cons a as ih => exact (ih (s.act a)).trans (h s a)

/-- The step on an action (R40). -/
theorem step_act (hr : s.rstLevel = false) (hp : s.phase = .conversation) (hl : s.pend = .act a :: rest) :
    step s = .next (State.settle ((s.act a).setPend rest)) :=
  (step_action hr hp hl).trans (congrArg (fun t => Host.Outcome.next (State.settle t)) (s.act_setPend rest a))

/-! ### Runs -/

/-- A run's first step (log 10). -/
theorem run_succ (n : Nat) (h : step s = .next t) : core.run (n + 1) s = core.run n t := by
  have first : core.step s = .next t := h
  simp [Host.Core.run, first]

/-- Two states with the same step have the same run. -/
theorem run_congr (n : Nat) (h : step s = step t) : core.run (n + 1) s = core.run (n + 1) t := by
  have first : core.step s = core.step t := h
  simp [Host.Core.run, first]

/-- RST low for the coming steps is RST low in the first of them, and in the rest, which see what is left of its stream (R295). -/
theorem State.rstLowFor_succ {n : Nat} (h : s.rstLowFor (n + 1) = true) :
    s.rstLevel = false ∧ ∀ t : State, t.rstIn = s.rstIn.tail → t.rstLowFor n = true := by
  unfold State.rstLowFor State.rstLevel at *
  cases hs : s.rstIn with
  | nil => exact ⟨rfl, fun t ht => by simp [ht]⟩
  | cons b l =>
    simp only [hs, List.take_succ_cons, List.all_cons, Bool.and_eq_true, Bool.not_eq_true'] at h
    exact ⟨h.1, fun t ht => by rw [ht]; exact h.2⟩

/-- A run over actions at the head of PEND performs them, while an entry is left (R40). -/
theorem run_actions (as : List Action) (hp : s.phase = .conversation) (hl : s.pend = as.map Item.act ++ rest)
    (more : rest ≠ []) (low : s.rstLowFor as.length = true) :
    core.run as.length s = .next ((s.performAll as).setPend rest) := by
  induction as generalizing s with
  | nil => exact congrArg _ (State.setPend_self hl).symm
  | cons a as ih =>
    obtain ⟨hr, low⟩ := State.rstLowFor_succ low
    have first : step s = .next ((s.act a).setPend (as.map Item.act ++ rest)) :=
      (step_act hr hp hl).trans (congrArg _ (State.settle_more (by simp [more])))
    have later := ih (s := (s.act a).setPend (as.map Item.act ++ rest)) ((State.perform_phase _ a).trans hp) rfl
      (low _ (State.perform_rstIn _ a))
    rw [List.length_cons, run_succ _ first, later, State.performAll_setPend]
    rfl

/-! ### The byte engine -/

/-- The three actions of a bit, while SCS is 1 and the pins are driven (R161). -/
theorem State.performAll_xferBit (s : State) (v : Bool) (driven : s.cfg.mode = .sw ∨ s.txnOpen = true) :
    s.performAll (xferBit v) =
      { s with sclk := true, si := v, rspValid := false, now := s.now + 3, rstIn := s.rstIn.drop 3,
               trace := s.trace ++
                 [.pins ⟨s.scs, false, s.si⟩, .pins ⟨s.scs, false, v⟩, .pins ⟨s.scs, true, v⟩] } := by
  have pins : ∀ u : State, u.cfg = s.cfg → u.txnOpen = s.txnOpen → u.pins = ⟨u.scs, u.sclk, u.si⟩ := fun u hc ht =>
    State.pins_driven (by rw [hc, ht]; exact driven)
  simp [xferBit, State.act, State.perform, State.observePins, State.observe, State.tick, pins, ← List.drop_one]

/-- What is seen of bit `j` of a byte that begins with SI at `si` (R161). -/
def bitSeen (scs si : Bool) (b : Byte) (j : Nat) : List Obs :=
  [.pins ⟨scs, false, if j = 0 then si else b.getLsbD (j - 1)⟩, .pins ⟨scs, false, b.getLsbD j⟩,
    .pins ⟨scs, true, b.getLsbD j⟩]

/-- The 25 actions of a byte: eight bits and a low clock (R161). -/
theorem State.performAll_xfer (s : State) (b : Byte) (driven : s.cfg.mode = .sw ∨ s.txnOpen = true) :
    s.performAll (xfer b) =
      { s with sclk := false, si := b.getLsbD 7, rspValid := false, now := s.now + 25, rstIn := s.rstIn.drop 25,
               trace := s.trace ++ ((List.range 8).flatMap (bitSeen s.scs s.si b) ++
                 [.pins ⟨s.scs, false, b.getLsbD 7⟩]) } := by
  have low : ∀ u : State, u.cfg = s.cfg → u.txnOpen = s.txnOpen →
      u.act (.clk false) = { u with sclk := false, rspValid := false, now := u.now + 1, rstIn := u.rstIn.tail,
                                    trace := u.trace ++ [.pins ⟨u.scs, false, u.si⟩] } := fun u hc ht => by
    have pins := State.pins_driven (s := { u.tick with sclk := false }) (by rw [← hc, ← ht] at driven; exact driven)
    simp only [State.act, State.perform, State.observePins, State.observe, pins]
    rfl
  simp [xfer, State.performAll_append, State.performAll_xferBit, driven, low, List.range_succ, bitSeen]

/-- The step that meets a byte is the step on the byte written out as its actions (R13, R161). -/
theorem step_writtenOut {k : WireKind} {b : Byte} {i : Instr} (hr : s.rstLevel = false) (hp : s.phase = .conversation)
    (hl : s.pend = .byte k b :: rest) (hd : decode (.wire k b) = .ok i) (htransfer : s.canTransfer = true) :
    step s = step (s.setPend ((xfer b).map Item.act ++ rest)) := by
  have first := step_act (s := s.setPend ((xfer b).map Item.act ++ rest)) (a := .clk false)
    (rest := (xfer b).tail.map Item.act ++ rest) hr hp rfl
  rw [step_byte_begins hr hp hl hd htransfer, first, State.settle_more (by simp [xfer, xferBit]), State.act_setPend]
  rfl

/-- Settles O39: the run is that over the byte's 25 actions. -/
theorem byteIsClockedOutLsbFirst : Obligations.ByteIsClockedOutLsbFirst := by
  intro s k b rest i hp hscs hsclk driven hl more hd low bit
  obtain ⟨hr, -⟩ := State.rstLowFor_succ low
  have bits : bit = bitSeen s.scs s.si b := by rw [hscs]; rfl
  calc core.run 25 s
    _ = core.run 25 (s.setPend ((xfer b).map Item.act ++ rest)) :=
      run_congr 24 (step_writtenOut hr hp hl hd (State.canTransfer_of_open hp hscs driven))
    _ = .next (((s.setPend _).performAll (xfer b)).setPend rest) := run_actions (s := s.setPend _) (xfer b) hp rfl more low
    _ = .next ((s.performAll (xfer b)).setPend rest) := by rw [State.performAll_setPend, State.setPend_setPend]
    _ = _ := by rw [State.performAll_xfer s b driven, bits, hscs]; rfl

end Sys2Proof.Machine
end

section
/-! The lists that the conversation commands load: the refresh loop's closed form (R193, R194), the bytes by the grammar (R104),
sizes, counts, and what the lists do not depend on (42_conversations.md sections 2 and 3). -/

namespace Sys2Proof.Machine

variable {c : Config} {fb : Nat → Byte} {s : State} {i : Instr}

/-! ### The refresh loop, line by line -/

/-- Inside line `j` the next byte is not the last of its line: the loop sends it and goes on (R193). -/
theorem refreshLoop_within {fuel j k : Nat} (hk : k + 1 < c.rowBytes) :
    refreshLoop c fb (fuel + 1) (j * c.rowBytes + k) (j + 1) =
      .byte .data (fb (j * c.rowBytes + k)) :: refreshLoop c fb fuel (j * c.rowBytes + (k + 1)) (j + 1) := by
  have sameLine : (j * c.rowBytes + k + 1) / c.rowBytes + 1 = j + 1 := by
    rw [Nat.add_assoc, Nat.mul_comm, Nat.mul_add_div (Nat.zero_lt_of_lt hk), Nat.div_eq_of_lt hk, Nat.add_zero]
  exact congrArg (List.cons _) (if_neg (not_not_intro sameLine))

/-- The address byte with which the loop announces line `j`, counted from 0, if the panel has it (R193, R101). -/
def announce (c : Config) (j : Nat) : List Item := if j + 1 ≤ c.height then [lineItem (j + 1)] else []

/-- After the last byte of line `j` the loop ends the line and announces the next (R193). -/
theorem refreshLoop_lineEnd {fuel j k : Nat} (hk : k + 1 = c.rowBytes) :
    refreshLoop c fb (fuel + 1) (j * c.rowBytes + k) (j + 1) =
      .byte .data (fb (j * c.rowBytes + k)) :: zeroItem ::
        (announce c (j + 1) ++ refreshLoop c fb fuel ((j + 1) * c.rowBytes) (j + 2)) := by
  have lineDone : j * c.rowBytes + k + 1 = (j + 1) * c.rowBytes := by rw [Nat.succ_mul, Nat.add_assoc, hk]
  have nextLine : (j + 1) * c.rowBytes / c.rowBytes = j + 1 := Nat.mul_div_cancel _ (by omega)
  simp [refreshLoop, lineDone, nextLine, announce]

/-- From byte `k` of line `j` the loop sends what is left of the line, ends it and announces the next (R193, R194). -/
theorem refreshLoop_line {fuel j : Nat} (n k : Nat) (hk : k + (n + 1) = c.rowBytes) :
    refreshLoop c fb (n + 1 + fuel) (j * c.rowBytes + k) (j + 1) =
      (List.range' k (n + 1)).map (fun k => Item.byte .data (fb (j * c.rowBytes + k))) ++ zeroItem ::
        (announce c (j + 1) ++ refreshLoop c fb fuel ((j + 1) * c.rowBytes) (j + 2)) := by
  induction n generalizing k with
  | zero =>
    rw [Nat.add_right_comm, Nat.zero_add, refreshLoop_lineEnd hk]
    rfl
  | succ n ih =>
    rw [Nat.add_right_comm, refreshLoop_within (by omega), ih (k + 1) (by omega), List.range'_succ]
    rfl

/-- The announcement of line `j` and the loop over the lines from there on are those lines (R194). -/
theorem announce_refreshLoop (hw : c.wf = true) (n j : Nat) (hn : j + n = c.height) :
    announce c j ++ refreshLoop c fb (n * c.rowBytes) (j * c.rowBytes) (j + 1) =
      (List.range' j n).flatMap (fun j => refreshLine c fb (j + 1)) := by
  induction n generalizing j with
  | zero => simp [announce, refreshLoop, ← hn]
  | succ n ih =>
    obtain ⟨b, hb⟩ : ∃ b, c.rowBytes = b + 1 := by
      have width := c.width_eq hw
      obtain ⟨-, atLeast, -⟩ := c.wf_iff.1 hw
      exact ⟨c.rowBytes - 1, by omega⟩
    have fuel : (n + 1) * c.rowBytes = b + 1 + n * c.rowBytes := by rw [Nat.succ_mul, hb, Nat.add_comm]
    have line := refreshLoop_line (c := c) (fb := fb) (fuel := n * c.rowBytes) (j := j) b 0 (by omega)
    rw [fuel]
    refine (congrArg (announce c j ++ ·) line).trans ?_
    rw [ih (j + 1) (by omega), List.range'_succ (n := n), List.flatMap_cons]
    have announced : announce c j = [lineItem (j + 1)] := if_pos (by omega)
    simp [announced, refreshLine, List.range_eq_range', hb]

/-- Settles O50: the line address ahead of the loop announces its first line. -/
theorem refreshLoopIsItsClosedForm : Obligations.RefreshLoopIsItsClosedForm := by
  intro s hw
  obtain ⟨-, -, -, hasLine, -⟩ := s.cfg.wf_iff.1 hw
  have first : announce s.cfg 0 = [lineItem 1] := if_pos hasLine
  have lines := announce_refreshLoop (c := s.cfg) (fb := s.byteAt) hw s.cfg.height 0 (Nat.zero_add _)
  rw [first, Nat.zero_mul, ← s.cfg.fbSize_eq hw, ← List.range_eq_range'] at lines
  unfold refreshBody refreshClosed
  rw [← lines]
  rfl

/-! ### The bytes of a list -/

@[simp] theorem wireBytes_nil : wireBytes [] = [] := rfl

@[simp] theorem wireBytes_act (a : Action) (l : List Item) : wireBytes (.act a :: l) = wireBytes l := rfl

@[simp] theorem wireBytes_byte (k : WireKind) (b : Byte) (l : List Item) : wireBytes (.byte k b :: l) = b :: wireBytes l :=
  rfl

@[simp] theorem wireBytes_append (l m : List Item) : wireBytes (l ++ m) = wireBytes l ++ wireBytes m :=
  List.filterMap_append

/-- OPEN and CLOSE send no byte (R164, R165). -/
theorem wireBytes_conversation (c : Config) (body : List Item) : wireBytes (conversation c body) = wireBytes body := by
  unfold conversation openBracket closeBracket
  cases c.mode with
  | sw => simp
  | hw => simp

/-- The bytes of one line (R104). -/
theorem wireBytes_refreshLine (c : Config) (fb : Nat → Byte) (j : Nat) :
    wireBytes (refreshLine c fb (j + 1)) =
      BitVec.ofNat 8 (j + 1) :: (List.range c.rowBytes).map (fun k => fb (j * c.rowBytes + k)) ++ [0x00#8] := by
  have data : (List.range c.rowBytes).filterMap (Item.byte? ∘ fun k => .byte .data (fb (j * c.rowBytes + k))) =
      (List.range c.rowBytes).map fun k => fb (j * c.rowBytes + k) := by
    rw [← List.filterMap_eq_map]
    rfl
  simp [wireBytes, refreshLine, lineItem, zeroItem, Item.byte?, data]

/-- The bytes of a conversation's list are those of the grammar (R104). -/
theorem wireBytes_conversationList (hw : s.cfg.wf = true) (hi : i.opensConversation = true) :
    wireBytes (conversationList i s) = grammarBytes i s := by
  cases i with
  | refresh =>
    have body : conversationList .refresh s = conversation s.cfg (refreshClosed s) :=
      congrArg (conversation s.cfg) (refreshLoopIsItsClosedForm s hw)
    have lines : wireBytes ((List.range s.cfg.height).flatMap fun j => refreshLine s.cfg s.byteAt (j + 1)) =
        (List.range s.cfg.height).flatMap fun j => wireBytes (refreshLine s.cfg s.byteAt (j + 1)) :=
      List.filterMap_flatMap ..
    rw [body, wireBytes_conversation, refreshClosed, wireBytes_append, wireBytes_append, lines]
    simp only [wireBytes_refreshLine]
    rfl
  | clearDisp => exact wireBytes_conversation s.cfg (clearBody s)
  | vcomTog => exact wireBytes_conversation s.cfg (toggleBody s)
  | _ => exact absurd hi Bool.false_ne_true

/-! ### Sizes -/

/-- The bytes of a refresh: command and trailer, and for each line its address, its data and its terminator. -/
theorem grammarBytes_refresh_length (s : State) :
    (grammarBytes .refresh s).length = 2 + s.cfg.height * (s.cfg.rowBytes + 2) := by
  simp [grammarBytes, List.length_flatMap]
  ring

@[simp] theorem pendActions_nil : pendActions [] = [] := rfl

@[simp] theorem pendActions_act (a : Action) (l : List Item) : pendActions (.act a :: l) = a :: pendActions l := rfl

theorem pendActions_append (l m : List Item) : pendActions (l ++ m) = pendActions l ++ pendActions m :=
  List.flatMap_append

/-- An entry stands for one action, a byte for 24 more. -/
theorem pendActions_length (l : List Item) : (pendActions l).length = l.length + 24 * (wireBytes l).length := by
  induction l with
  | nil => rfl
  | cons x l ih =>
    have one : (pendActions (x :: l)).length = x.actions.length + (pendActions l).length := by simp [pendActions]
    rw [one, ih]
    cases x with
    | act a => simp [Item.actions]; omega
    | byte k b => simp [Item.actions, xfer, xferBit]; omega

/-- OPEN and CLOSE are four entries, and in HW mode the transaction's two marks (R164, R165). -/
theorem conversation_length (c : Config) (body : List Item) :
    (conversation c body).length = body.length + 4 + if c.mode = .hw then 2 else 0 := by
  unfold conversation openBracket closeBracket
  cases c.mode with
  | sw => simp
  | hw => simp

/-- A refresh's body is its bytes and one toggle (R193, R194). -/
theorem refreshClosed_length (s : State) :
    (refreshClosed s).length = 3 + s.cfg.height * (s.cfg.rowBytes + 2) := by
  simp [refreshClosed, refreshLine, List.length_flatMap]
  ring

/-- Settles O51: the bytes by the grammar, and one action for each entry with 24 more for each byte. -/
theorem conversationSizes : Obligations.ConversationSizes := by
  intro s hw extra n
  have refreshBytes : (wireBytes (conversationList .refresh s)).length = n := by
    rw [wireBytes_conversationList hw rfl, grammarBytes_refresh_length]
  have clearBytes : (wireBytes (conversationList .clearDisp s)).length = 2 := by
    rw [wireBytes_conversationList hw rfl]; rfl
  have toggleBytes : (wireBytes (conversationList .vcomTog s)).length = 2 := by
    rw [wireBytes_conversationList hw rfl]; rfl
  have refreshEntries : (conversationList .refresh s).length = n + 5 + extra := by
    change (conversation s.cfg (refreshBody s)).length = _
    rw [refreshLoopIsItsClosedForm s hw, conversation_length, refreshClosed_length]
    omega
  have clearEntries : (conversationList .clearDisp s).length = 8 + extra :=
    (congrArg (· + 1) (conversation_length s.cfg (clearBody s))).trans (Nat.add_right_comm ..)
  have toggleEntries : (conversationList .vcomTog s).length = 7 + extra := conversation_length s.cfg (toggleBody s)
  refine ⟨refreshBytes, clearBytes, toggleBytes, ?_, ?_, ?_⟩
  · rw [pendActions_length, refreshBytes, refreshEntries]; omega
  · rw [pendActions_length, clearBytes, clearEntries]; omega
  · rw [pendActions_length, toggleBytes, toggleEntries]; omega

/-! ### Counts -/

/-- An action that no byte is made of: neither of the clock nor of the data pin (R161). -/
def Action.unclocked : Action → Bool
  | .clk _ => false
  | .dat _ => false
  | _ => true

/-- No byte holds such an action. -/
theorem count_xfer {a : Action} (ha : a.unclocked = true) (b : Byte) : (xfer b).count a = 0 := by
  refine List.count_eq_zero.2 fun h => ?_
  cases a with
  | clk | dat => exact absurd ha Bool.false_ne_true
  | _ => simp [xfer, xferBit] at h

/-- So it occurs in a list as often as its entry does. -/
theorem count_pendActions {a : Action} (ha : a.unclocked = true) (l : List Item) :
    (pendActions l).count a = l.count (.act a) := by
  induction l with
  | nil => rfl
  | cons x l ih =>
    have split : (pendActions (x :: l)).count a = x.actions.count a + (pendActions l).count a :=
      List.count_append
    rw [split, ih]
    cases x with
    | act b => simp [Item.actions, List.count_cons, Nat.add_comm]
    | byte k b => simp [Item.actions, count_xfer ha]

/-- The refresh loop holds bytes only (R193). -/
theorem count_refreshLoop (c : Config) (fb : Nat → Byte) (a : Action) (fuel sent prev : Nat) :
    (refreshLoop c fb fuel sent prev).count (.act a) = 0 := by
  induction fuel generalizing sent prev with
  | zero => rfl
  | succ fuel ih =>
    simp only [refreshLoop]
    split
    · split
      · simp [ih, zeroItem, lineItem]
      · simp [ih, zeroItem]
    · simp [ih]

/-- The one action among a body's entries is the toggle (R193, R196, R197). -/
theorem count_conversationBody (hi : i.opensConversation = true) (s : State) (a : Action) :
    (conversationBody i s).count (.act a) = if Action.toggleVcom = a then 1 else 0 := by
  cases i with
  | refresh =>
    simp [conversationBody, refreshBody, count_refreshLoop, commandItem, toggleItem, lineItem, zeroItem, List.count_cons]
  | clearDisp => simp [conversationBody, clearBody, commandItem, toggleItem, zeroItem, List.count_cons]
  | vcomTog => simp [conversationBody, toggleBody, commandItem, toggleItem, zeroItem, List.count_cons]
  | _ => exact absurd hi Bool.false_ne_true

/-- A list is OPEN, the body and CLOSE, with CLEARDISP's clearing of the buffer ahead (R191, R196). -/
theorem conversationList_eq (hi : i.opensConversation = true) (s : State) :
    conversationList i s =
      (if i = .clearDisp then [Item.act .fbClear] else []) ++ conversation s.cfg (conversationBody i s) := by
  cases i with
  | refresh | clearDisp | vcomTog => rfl
  | _ => exact absurd hi Bool.false_ne_true

/-- How often an action that no byte is made of occurs in a conversation: ahead of it, in its body and in its bracket. -/
theorem count_conversationList {a : Action} (hi : i.opensConversation = true) (ha : a.unclocked = true) (s : State) :
    (pendActions (conversationList i s)).count a =
      (if i = .clearDisp ∧ Action.fbClear = a then 1 else 0) + (if Action.toggleVcom = a then 1 else 0) +
        (openBracket s.cfg ++ closeBracket s.cfg).count (.act a) := by
  have ahead : (if i = .clearDisp then [Item.act .fbClear] else []).count (.act a) =
      if i = .clearDisp ∧ Action.fbClear = a then 1 else 0 := by
    by_cases hc : i = .clearDisp
    · simp [hc, List.count_cons]
    · simp [hc]
  rw [count_pendActions ha, conversationList_eq hi, conversation]
  simp only [List.count_append, count_conversationBody hi, ahead]
  omega

/-- Settles O52: none of the counted actions is part of a byte; the bracket's are those of the mode. -/
theorem oneSelectAndOneTogglePerConversation : Obligations.OneSelectAndOneTogglePerConversation := by
  intro i s hi l txns
  have count : ∀ {a : Action}, a.unclocked = true → l.count a = _ := fun ha => count_conversationList hi ha s
  rw [count rfl, count rfl, count rfl, count rfl, count rfl, count rfl, count rfl]
  cases hm : s.cfg.mode with
  | sw => simp [txns, hm, openBracket, closeBracket]
  | hw => simp [txns, hm, openBracket, closeBracket]

/-! ### What the lists do not depend on -/

/-- The place of an entry, if it is a byte. -/
def Item.kind? : Item → Option WireKind
  | .act _ => none
  | .byte k _ => some k

/-- The kinds of the refresh loop's entries are those of any other buffer's (R200). -/
theorem refreshLoop_kinds (c : Config) (fb fb' : Nat → Byte) (fuel sent prev : Nat) :
    (refreshLoop c fb fuel sent prev).map Item.kind? = (refreshLoop c fb' fuel sent prev).map Item.kind? := by
  induction fuel generalizing sent prev with
  | zero => rfl
  | succ fuel ih =>
    simp only [refreshLoop]
    split
    · simp [ih, Item.kind?]
    · simp [ih, Item.kind?]

/-- Settles O53: only the loop reads the buffer, and nothing reads ROT. -/
theorem refreshShapeIgnoresDataAndRotation : Obligations.RefreshShapeIgnoresDataAndRotation := by
  intro s fb' r kind
  refine ⟨?kinds, rfl⟩
  have kinds : kind = Item.kind? := by
    funext x
    cases x with
    | act a => rfl
    | byte k b => rfl
  have loop := refreshLoop_kinds s.cfg (State.byteAt { s with fb := fb' }) s.byteAt s.cfg.fbSize 0 1
  simp only [kinds, refreshBody, List.map_append, loop]
  rfl

/-- In HW mode the list of SW mode stands between the transaction's marks (R164, R165). -/
theorem conversation_hw (c : Config) (body : List Item) :
    conversation { c with mode := .hw } body =
      [.act .txnBegin] ++ conversation { c with mode := .sw } body ++ [.act .txnEnd] := by
  simp [conversation, openBracket, closeBracket]

/-- The refresh loop does not read the mode (R193). -/
theorem refreshLoop_mode (c : Config) (m : Mode) (fb : Nat → Byte) (fuel sent prev : Nat) :
    refreshLoop { c with mode := m } fb fuel sent prev = refreshLoop c fb fuel sent prev := by
  induction fuel generalizing sent prev with
  | zero => rfl
  | succ fuel ih =>
    have line : Config.rowBytes { c with mode := m } = c.rowBytes := rfl
    simp [refreshLoop, ih, line]

/-- No body reads the mode (R191). -/
theorem conversationBody_mode (hi : i.opensConversation = true) (s : State) (m : Mode) :
    conversationBody i { s with cfg := { s.cfg with mode := m } } = conversationBody i s := by
  cases i with
  | refresh =>
    have loop := refreshLoop_mode s.cfg m s.byteAt s.cfg.fbSize 0 1
    exact congrArg (fun l => [commandItem writeCommand s, toggleItem, lineItem 1] ++ l ++ [zeroItem]) loop
  | clearDisp | vcomTog => rfl
  | _ => exact absurd hi Bool.false_ne_true

/-- Settles O54: the bracket is the list of SW mode, whose body is HW mode's too. -/
theorem modesDifferOnlyInTransactionMarks : Obligations.ModesDifferOnlyInTransactionMarks := by
  intro i s hi sw hw pre
  refine ⟨conversation sw.cfg (conversationBody i s), ?_, ?_⟩
  · rw [conversationList_eq hi sw, conversationBody_mode hi]
  · rw [conversationList_eq hi hw, conversationBody_mode hi]
    exact (congrArg (pre ++ ·) (conversation_hw s.cfg _)).trans (by simp [sw])

end Sys2Proof.Machine
end

section
/-! A conversation from its acceptance to its end: the run performs the actions of its list in order, a step each (R40, R190). -/

namespace Sys2Proof.Machine

variable {s t : State} {a : Action} {as : List Action} {i : Instr} {w : HostWord} {rest : List HostWord}

/-! ### The run over PEND with its bytes written out -/

theorem pendActions_map_act (as : List Action) : pendActions (as.map Item.act) = as := by
  induction as with
  | nil => rfl
  | cons a as ih => exact congrArg (List.cons a) ih

/-- Every entry stands for some action. -/
theorem eq_nil_of_pendActions {l : List Item} (h : pendActions l = []) : l = [] := by
  cases l with
  | nil => rfl
  | cons x l =>
    cases x with
    | act a => exact absurd h (List.cons_ne_nil _ _)
    | byte k b => exact absurd h (List.cons_ne_nil _ _)

/-- A step of an open conversation performs the first of its actions, whether it is an entry of PEND or the first of a byte's
(R40, R161). -/
theorem step_firstAction (hs : s.inv = true) (hr : s.rstLevel = false) (hp : s.phase = .conversation)
    (h : pendActions s.pend = a :: as) :
    ∃ p, pendActions p = as ∧ step s = .next (State.settle ((s.act a).setPend p)) := by
  cases hl : s.pend with
  | nil => exact absurd ((congrArg pendActions hl).symm.trans h) (List.cons_ne_nil _ _).symm
  | cons x rest =>
    rw [hl] at h
    cases x with
    | act b =>
      obtain ⟨rfl, rfl⟩ := List.cons.inj h
      exact ⟨rest, rfl, step_act hr hp hl⟩
    | byte k b =>
      obtain ⟨rfl, rfl⟩ := List.cons.inj h
      obtain ⟨-, -, htransfer, ⟨i, hd⟩, -⟩ := State.byteHead_ready hs hp hl
      refine ⟨(xfer b).tail.map Item.act ++ rest, ?_, ?_⟩
      · rw [pendActions_append, pendActions_map_act]
        rfl
      · rw [step_writtenOut hr hp hl hd htransfer]
        exact step_act (s := s.setPend ((xfer b).map Item.act ++ rest)) hr hp rfl

/-- An open conversation runs to its end in as many steps as it has actions (R40, R190). -/
theorem run_conversation (hs : s.inv = true) (hp : s.phase = .conversation) (h : pendActions s.pend = as)
    (low : s.rstLowFor as.length = true) :
    core.run as.length s = .next (State.settle ((s.performAll as).setPend [])) := by
  induction as generalizing s with
  | nil =>
    obtain ⟨-, -, -, -, -, -, hopen⟩ := s.inv_iff.1 hs
    exact absurd (eq_nil_of_pendActions h) (hopen hp).1
  | cons a as ih =>
    obtain ⟨hr, low⟩ := State.rstLowFor_succ low
    obtain ⟨p, hp', first⟩ := step_firstAction hs hr hp h
    refine (run_succ as.length first).trans ?_
    by_cases done : p = []
    · subst done
      obtain rfl : as = [] := hp'.symm
      rfl
    · have more : State.settle ((s.act a).setPend p) = (s.act a).setPend p := State.settle_more done
      rw [more] at first ⊢
      have later := ih (s := (s.act a).setPend p) (everyStepKeepsTheInvariant s _ hs first)
        ((State.perform_phase _ a).trans hp) hp' (low _ (State.perform_rstIn _ a))
      rw [later, State.performAll_setPend, State.setPend_setPend, State.performAll_cons]

/-- The invariant holds along a run (R42). -/
theorem run_inv (n : Nat) (hs : s.inv = true) (h : core.run n s = .next t) : t.inv = true := by
  induction n generalizing s with
  | zero =>
    obtain rfl : s = t := Host.Outcome.next.inj h
    exact hs
  | succ n ih =>
    obtain ⟨u, hu⟩ := controllerNeverStops s hs
    exact ih (everyStepKeepsTheInvariant s u hs hu) ((run_succ n hu).symm.trans h)

/-! ### Acceptance -/

/-- The state in which a conversation command has been accepted (R190). -/
def State.accepted (s : State) (rest : List HostWord) (i : Instr) : State :=
  State.openWith { s.tick with cmds := rest } (conversationList i s)

/-- The actions of a command's conversation, in order. -/
def conversationActions (i : Instr) (s : State) : List Action := pendActions (conversationList i s)

/-- The state at the end of that conversation. -/
def State.finished (s : State) (rest : List HostWord) (i : Instr) : State :=
  State.settle (((s.accepted rest i).performAll (conversationActions i s)).setPend [])

/-- The list depends on nothing that the accepting step changes (log 10). -/
theorem conversationList_accepting (hi : i.opensConversation = true) (s : State) (rest : List HostWord) :
    conversationList i { s.tick with cmds := rest } = conversationList i s := by
  cases i with
  | refresh | clearDisp | vcomTog => rfl
  | _ => exact absurd hi Bool.false_ne_true

/-- The step that accepts a conversation command (R34, R190). -/
theorem step_accepts (hr : s.rstLevel = false) (hp : s.phase = .idle) (hc : s.cmds = w :: rest)
    (hd : decode (.host w) = .ok i) (hi : i.opensConversation = true) (ready : s.transportReady = true) :
    step s = .next (s.accepted rest i) := by
  have opens := exec_conversation_ready (s := { s.tick with cmds := rest }) hi ready
  rw [step_command hr hp hc hd, opens, conversationList_accepting hi]
  rfl

/-- An accepted conversation's run, and the invariant at its end. -/
theorem run_accepted (hs : s.inv = true) (hp : s.phase = .idle) (hc : s.cmds = w :: rest)
    (hd : decode (.host w) = .ok i) (hi : i.opensConversation = true) (ready : s.transportReady = true)
    (low : s.rstLowFor ((conversationActions i s).length + 1) = true) :
    core.run ((conversationActions i s).length + 1) s = .next (s.finished rest i) ∧ (s.finished rest i).inv = true := by
  obtain ⟨hr, low⟩ := State.rstLowFor_succ low
  have first := step_accepts hr hp hc hd hi ready
  have hrun : core.run ((conversationActions i s).length + 1) s = .next (s.finished rest i) :=
    (run_succ _ first).trans
      (run_conversation (everyStepKeepsTheInvariant s _ hs first) rfl rfl (low (s.accepted rest i) rfl))
  exact ⟨hrun, run_inv _ hs hrun⟩

/-! ### What the actions of a conversation amount to -/

/-- VCOM is inverted once for each toggle (R191, R40). -/
theorem State.performAll_vcom (s : State) (as : List Action) :
    (s.performAll as).vcom = Bool.not^[as.count .toggleVcom] s.vcom := by
  induction as generalizing s with
  | nil => rfl
  | cons a as ih =>
    obtain ⟨-, -, -, hvcom, -⟩ := s.tick.perform_writes a
    rw [State.performAll_cons, ih, State.act, hvcom]
    by_cases ha : a = .toggleVcom
    · subst ha
      rw [List.count_cons_self, Function.iterate_succ_apply]
      rfl
    · rw [List.count_cons_of_ne ha]
      cases a with
      | toggleVcom => exact absurd rfl ha
      | _ => rfl

/-- The buffer is cleared if FB_CLEAR is among the actions, and left if not (R13, R40). -/
theorem State.performAll_fb (s : State) (as : List Action) :
    (s.performAll as).fb = if Action.fbClear ∈ as then s.clearBuffer.fb else s.fb := by
  induction as generalizing s with
  | nil => rfl
  | cons a as ih =>
    obtain ⟨-, -, -, -, -, hfb⟩ := s.tick.perform_writes a
    have cleared : (s.act a).clearBuffer.fb = s.clearBuffer.fb := by simp [State.act]
    rw [State.performAll_cons, ih, cleared, State.act, hfb]
    by_cases ha : a = .fbClear
    · simp [ha]
    · simp [ha, Ne.symm ha]

theorem State.performAll_cfg (s : State) (as : List Action) : (s.performAll as).cfg = s.cfg :=
  State.performAll_keeps (fun _ a => State.perform_cfg _ a) s as

/-- A conversation gives one response, at its end, and writes no register but VCOM (R35, R41, R190). -/
theorem State.finished_frame (s : State) (rest : List HostWord) (i : Instr) :
    (s.finished rest i).phase = .idle ∧ (s.finished rest i).cmds = rest ∧
    (s.finished rest i).responses = s.responses ++ [0#2 ++ 0#32] ∧
    (s.finished rest i).rot = s.rot ∧ (s.finished rest i).inited = s.inited ∧
    (s.finished rest i).spiHeld = s.spiHeld ∧ (s.finished rest i).fault = s.fault ∧ (s.finished rest i).cfg = s.cfg := by
  have keeps {α : Type} {f : State → α} (h : ∀ u a, f (State.act u a) = f u) :=
    State.performAll_keeps h (s.accepted rest i) (conversationActions i s)
  unfold State.finished
  rw [State.settle_done rfl]
  refine ⟨rfl, ?_, ?_, ?_, ?_, ?_, ?_, ?_⟩
  · exact keeps (f := State.cmds) fun _ a => State.perform_cmds _ a
  · refine (State.emitResponse_responses _ _).trans (congrArg (· ++ _) ?_)
    exact keeps (f := State.responses) fun _ a => State.perform_responses _ a
  · exact keeps (f := State.rot) fun _ a => State.perform_rot _ a
  · exact keeps (f := State.inited) fun _ a => State.perform_inited _ a
  · exact keeps (f := State.spiHeld) fun _ a => State.perform_spiHeld _ a
  · exact keeps (f := State.fault) fun _ a => State.perform_fault _ a
  · exact keeps (f := State.cfg) fun _ a => State.perform_cfg _ a

/-- VCOM and the buffer at a conversation's end (R198, R196). -/
theorem State.finished_writes (hi : i.opensConversation = true) (s : State) (rest : List HostWord) :
    (s.finished rest i).vcom = !s.vcom ∧
    (s.finished rest i).fb = if i = .clearDisp then s.clearBuffer.fb else s.fb := by
  obtain ⟨-, -, toggles, -, -, -, clears⟩ := oneSelectAndOneTogglePerConversation i s hi
  have clearing : Action.fbClear ∈ conversationActions i s ↔ i = .clearDisp := by
    rw [← List.count_pos_iff, conversationActions, clears]
    by_cases hc : i = .clearDisp
    · simp [hc]
    · simp [hc]
  unfold State.finished
  rw [State.settle_done rfl]
  constructor
  · refine (State.performAll_vcom _ _).trans ?_
    rw [conversationActions, toggles]
    rfl
  · refine (State.performAll_fb _ _).trans ?_
    simp only [clearing]
    rfl

/-- Settles O55: the run of the list's actions; the pins at its end are the invariant's for an idle controller. -/
theorem conversationRunsToItsEnd : Obligations.ConversationRunsToItsEnd := by
  intro s w rest i hs hp hc hd hi ready n low
  obtain ⟨hrun, hinv⟩ := run_accepted hs hp hc hd hi ready low
  obtain ⟨hphase, hcmds, hresponses, hrot, hinited, hheld, hfault, hcfg⟩ := s.finished_frame rest i
  obtain ⟨hvcom, hfb⟩ := State.finished_writes hi s rest
  obtain ⟨-, -, -, -, -, hidle, -⟩ := (State.inv_iff _).1 hinv
  obtain ⟨hpend, hscs, hsclk, hclosed⟩ := hidle hphase
  refine ⟨_, hrun, hphase, hpend, hcmds, hresponses, hvcom, hscs, hsclk, hclosed, fun hclear a ha => ?_,
    fun hother => hfb.trans (if_neg hother), hrot, hinited, hheld, hfault, hcfg⟩
  rw [State.byteAt_congr (s := s.clearBuffer) hcfg (hfb.trans (if_pos hclear))]
  exact s.byteAt_clearBuffer a ha

end Sys2Proof.Machine
end

section
/-! What a listener on the pins makes of a conversation (R166): it hears the bits of the body's bytes, between the edges of
chip-select, and nothing else. -/

namespace Sys2Proof.Machine

variable {s : State} {l l' : Listener} {p : Pins} {i : Instr}

/-! ### What is seen of a list of actions -/

/-- The observations that a list of actions adds to the history, one action a step (R14). -/
def State.seenAlong : State → List Action → List Obs
  | _, [] => []
  | s, a :: as => a.seen s.cfg.mode (s.act a).pins ++ (s.act a).seenAlong as

@[simp] theorem State.seenAlong_nil (s : State) : s.seenAlong [] = [] := rfl

@[simp] theorem State.seenAlong_cons (s : State) (a : Action) (as : List Action) :
    s.seenAlong (a :: as) = a.seen s.cfg.mode (s.act a).pins ++ (s.act a).seenAlong as := rfl

theorem State.performAll_trace (s : State) (as : List Action) :
    (s.performAll as).trace = s.trace ++ s.seenAlong as := by
  induction as generalizing s with
  | nil => exact (List.append_nil _).symm
  | cons a as ih =>
    have first : (s.act a).trace = s.trace ++ a.seen s.cfg.mode (s.act a).pins := s.tick.perform_trace_eq a
    rw [State.performAll_cons, ih, first, List.append_assoc]
    rfl

theorem State.seenAlong_append (s : State) (as bs : List Action) :
    s.seenAlong (as ++ bs) = s.seenAlong as ++ (s.performAll as).seenAlong bs := by
  induction as generalizing s with
  | nil => rfl
  | cons a as ih => exact (congrArg (_ ++ ·) (ih (s.act a))).trans (List.append_assoc ..).symm

/-- Chip-select is 1 and the engine drives the pins (R160, R162). -/
def State.Selected (s : State) : Prop := s.scs = true ∧ (s.cfg.mode = .sw ∨ s.txnOpen = true)

/-- A byte leaves the device selected, and its 25 triples are seen (R161). -/
theorem State.Selected.xfer (h : s.Selected) (b : Byte) :
    (s.performAll (xfer b)).Selected ∧
    s.seenAlong (Machine.xfer b) =
      (List.range 8).flatMap (bitSeen true s.si b) ++ [.pins ⟨true, false, b.getLsbD 7⟩] := by
  obtain ⟨hscs, driven⟩ := h
  have done := s.performAll_xfer b driven
  refine ⟨by rw [done]; exact ⟨hscs, driven⟩, List.append_cancel_left (as := s.trace) ?_⟩
  rw [← State.performAll_trace, done, hscs]

/-! ### The listener -/

theorem Listener.hearAll_append (l : Listener) (os os' : List Obs) : l.hearAll (os ++ os') = (l.hearAll os).hearAll os' :=
  List.foldl_append ..

/-- While chip-select stays low nothing is heard (R166). -/
theorem Listener.hearPins_unselected (hl : l.last.scs = false) (hp : p.scs = false) :
    l.hearPins p = ⟨p, l.bits, l.heard⟩ := by
  simp [Listener.hearPins, hl, hp]

/-- Chip-select falling ends the conversation (R166). -/
theorem Listener.hearPins_deselect (hl : l.last.scs = true) (hp : p.scs = false) :
    l.hearPins p = ⟨p, [], l.heard ++ [l.bits]⟩ := by
  simp [Listener.hearPins, hl, hp]

/-- Inside one conversation the listener has gone from `l` to `l'` and sampled the given bits. -/
def Listener.Samples (l l' : Listener) (bits : List Bool) : Prop :=
  l'.last.scs = true ∧ l'.bits = l.bits ++ bits ∧ l'.heard = l.heard

/-- The triples of a byte are heard as its bits, bit 0 first (R161, R166). -/
theorem Listener.samples_byte (hl : l.last.scs = true) (si : Bool) (b : Byte) :
    l.Samples (l.hearAll ((List.range 8).flatMap (bitSeen true si b) ++ [.pins ⟨true, false, b.getLsbD 7⟩]))
      (bitsOfByte b) := by
  simp [Listener.Samples, Listener.hearAll, Listener.hear, Listener.hearPins, List.range_succ, bitSeen, bitsOfByte, hl]

/-- A body is heard as the bits of its bytes; its toggle is not seen (R166, R191). -/
theorem State.Selected.hearBody {c : Config} {body : List Item} (h : s.Selected)
    (hb : ∀ x ∈ body, bodyItem c x = true) (hl : l.last.scs = true) :
    (s.performAll (pendActions body)).Selected ∧
    l.Samples (l.hearAll (s.seenAlong (pendActions body))) ((wireBytes body).flatMap bitsOfByte) := by
  induction body generalizing s l with
  | nil => exact ⟨h, hl, (List.append_nil _).symm, rfl⟩
  | cons x body ih =>
    have hx := hb x (List.mem_cons_self ..)
    have hbody := fun y hy => hb y (List.mem_cons_of_mem _ hy)
    cases x with
    | act a =>
      obtain rfl : a = .toggleVcom := beq_iff_eq.1 hx
      exact ih (s := s.act .toggleVcom) h hbody hl
    | byte k b =>
      obtain ⟨hsel, seen⟩ := h.xfer b
      obtain ⟨hlast, hbits, hheard⟩ := Listener.samples_byte hl s.si b
      rw [← seen] at hlast hbits hheard
      obtain ⟨hsel', hlast', hbits', hheard'⟩ := ih hsel hbody hlast
      have actions : pendActions (.byte k b :: body) = Machine.xfer b ++ pendActions body := rfl
      rw [actions, State.performAll_append, State.seenAlong_append, Listener.hearAll_append]
      refine ⟨hsel', hlast', ?_, hheard'.trans hheard⟩
      rw [hbits', hbits, wireBytes_byte, List.flatMap_cons, List.append_assoc]

/-! ### The bracket -/

/-- Chip-select rising, with the clock low, opens a conversation without a sample (R164, R166). -/
theorem hearSelect (hsclk : s.sclk = false) (driven : s.cfg.mode = .sw ∨ s.txnOpen = true)
    (hl : l.last.scs = false) (d : Nat) :
    (s.performAll [.cs true, .delay d]).Selected ∧
    Listener.Samples ⟨l.last, [], l.heard⟩ (l.hearAll (s.seenAlong [.cs true, .delay d])) [] := by
  have pins : (s.act (.cs true)).pins = ⟨true, false, s.si⟩ :=
    (State.pins_driven (s := s.act (.cs true)) driven).trans (congrArg (Pins.mk true · s.si) hsclk)
  have seen : s.seenAlong [.cs true, .delay d] = [.pins ⟨true, false, s.si⟩, .delay d] := by
    rw [← pins]
    rfl
  refine ⟨⟨rfl, driven⟩, ?_⟩
  rw [seen]
  simp [Listener.Samples, Listener.hearAll, Listener.hear, Listener.hearPins, hl]

/-- TXN_BEGIN and what is seen of it (R33, R164). -/
theorem State.act_txnBegin (hm : s.cfg.mode = .hw) :
    s.act .txnBegin = ((s.tick.writeTxnOpen true).observe .txnBegin).observePins :=
  if_pos hm

/-- OPEN selects the device, and is heard as the beginning of a conversation (R164, R166). -/
theorem hearOpen (hscs : s.scs = false) (hsclk : s.sclk = false) (hl : l.last.scs = false) :
    (s.performAll (pendActions (openBracket s.cfg))).Selected ∧
    Listener.Samples ⟨l.last, [], l.heard⟩ (l.hearAll (s.seenAlong (pendActions (openBracket s.cfg)))) [] := by
  unfold openBracket
  cases hm : s.cfg.mode with
  | sw =>
    simp only [pendActions_act, pendActions_nil]
    exact hearSelect hsclk (.inl hm) hl _
  | hw =>
    have low : (s.act .txnBegin).pins.scs = false := by simp [State.act_txnBegin hm, hscs]
    have unheard : l.hearAll (Action.txnBegin.seen s.cfg.mode (s.act .txnBegin).pins) =
        ⟨(s.act .txnBegin).pins, l.bits, l.heard⟩ := by
      rw [Action.seen, if_pos hm]
      exact Listener.hearPins_unselected hl low
    obtain ⟨hsel, hheard⟩ := hearSelect (s := s.act .txnBegin) (l := ⟨(s.act .txnBegin).pins, l.bits, l.heard⟩)
      (by simp [State.act_txnBegin hm, hsclk]) (.inr (by simp [State.act_txnBegin hm, hm])) low
      s.cfg.tSettleUs
    simp only [pendActions_act, pendActions_nil]
    rw [State.performAll_cons, State.seenAlong_cons, Listener.hearAll_append, unheard]
    exact ⟨hsel, hheard⟩

/-- Chip-select falling ends the conversation (R165, R166). -/
theorem hearDeselect (s : State) (hl : l.last.scs = true) (d : Nat) :
    l.hearAll (s.seenAlong [.delay d, .cs false]) =
      ⟨(s.performAll [.delay d, .cs false]).pins, [], l.heard ++ [l.bits]⟩ :=
  Listener.hearPins_deselect hl (State.pins_scs (s.performAll [.delay d, .cs false]))

/-- CLOSE is heard as the end of the conversation; TXN_END of HW mode adds nothing to it (R165, R166). -/
theorem hearClose {c : Config} (hc : s.cfg = c) (hl : l.last.scs = true) :
    (l.hearAll (s.seenAlong (pendActions (closeBracket c)))).last.scs = false ∧
    (l.hearAll (s.seenAlong (pendActions (closeBracket c)))).heard = l.heard ++ [l.bits] := by
  have heard := hearDeselect s hl c.tSettleUs
  have low : (s.performAll [.delay c.tSettleUs, .cs false]).pins.scs = false := State.pins_scs _
  unfold closeBracket
  cases hm : c.mode with
  | sw =>
    simp only [pendActions_act, pendActions_nil]
    rw [heard]
    exact ⟨low, rfl⟩
  | hw =>
    generalize ht : s.performAll [.delay c.tSettleUs, .cs false] = t at heard low
    have hm' : t.cfg.mode = .hw := by rw [← ht, State.performAll_cfg, hc, hm]
    have hscs : (t.act .txnEnd).pins.scs = false := by
      obtain ⟨hscs, -⟩ := t.tick.perform_writes .txnEnd
      rw [State.pins_scs]
      exact hscs.trans (t.pins_scs.symm.trans low)
    have ended : t.seenAlong [.txnEnd] = [.txnEnd, .pins (t.act .txnEnd).pins] := by
      simp [State.seenAlong, Action.seen, hm']
    have unheard := Listener.hearPins_unselected (l := ⟨t.pins, [], l.heard ++ [l.bits]⟩) low hscs
    have all : l.hearAll (s.seenAlong [.delay c.tSettleUs, .cs false, .txnEnd]) =
        ⟨(t.act .txnEnd).pins, [], l.heard ++ [l.bits]⟩ := by
      refine (congrArg l.hearAll (s.seenAlong_append [.delay c.tSettleUs, .cs false] [.txnEnd])).trans ?_
      rw [Listener.hearAll_append, ht, heard, ended]
      exact unheard
    simp only [pendActions_act, pendActions_nil]
    rw [all]
    exact ⟨hscs, rfl⟩

/-! ### The whole conversation -/

/-- OPEN, a body and CLOSE are heard as one conversation with the bits of the body's bytes (R166, R191). -/
theorem hearConversation {body : List Item} (hscs : s.scs = false) (hsclk : s.sclk = false)
    (hb : ∀ x ∈ body, bodyItem s.cfg x = true) (hl : l.last.scs = false) :
    (l.hearAll (s.seenAlong (pendActions (conversation s.cfg body)))).last.scs = false ∧
    (l.hearAll (s.seenAlong (pendActions (conversation s.cfg body)))).heard =
      l.heard ++ [(wireBytes body).flatMap bitsOfByte] := by
  obtain ⟨hsel, hlast, hbits, hheard⟩ := hearOpen hscs hsclk hl
  obtain ⟨-, hlast', hbits', hheard'⟩ := hsel.hearBody hb hlast
  obtain ⟨hdone, hheard''⟩ :=
    hearClose (s := (s.performAll (pendActions (openBracket s.cfg))).performAll (pendActions body)) (c := s.cfg)
      (by rw [State.performAll_cfg, State.performAll_cfg]) hlast'
  rw [conversation, pendActions_append, pendActions_append, State.seenAlong_append, State.seenAlong_append,
    Listener.hearAll_append, Listener.hearAll_append, State.performAll_append]
  refine ⟨hdone, ?_⟩
  rw [hheard'', hheard', hheard, hbits', hbits]
  rfl

/-- A command's whole list is heard as its body's bytes; what CLEARDISP does ahead of OPEN is not seen (R196). -/
theorem hearConversationList (hi : i.opensConversation = true) {s₀ : State} (hcfg : s.cfg = s₀.cfg)
    (hw : s₀.cfg.wf = true) (hscs : s.scs = false) (hsclk : s.sclk = false) (hl : l.last.scs = false) :
    (l.hearAll (s.seenAlong (conversationActions i s₀))).last.scs = false ∧
    (l.hearAll (s.seenAlong (conversationActions i s₀))).heard =
      l.heard ++ [(wireBytes (conversationBody i s₀)).flatMap bitsOfByte] := by
  have hb := bodyItem_conversationBody s₀ hw i
  rw [← hcfg] at hb
  have actions : conversationActions i s₀ =
      pendActions (if i = .clearDisp then [Item.act .fbClear] else []) ++
        pendActions (conversation s.cfg (conversationBody i s₀)) := by
    rw [conversationActions, conversationList_eq hi, pendActions_append, hcfg]
  rw [actions]
  split
  · exact hearConversation (s := s.act .fbClear) hscs hsclk hb hl
  · exact hearConversation hscs hsclk hb hl

/-- Eight samples are the byte they were sent from (R166). -/
theorem ofBoolListLE_bitsOfByte (b : Byte) : BitVec.ofBoolListLE (bitsOfByte b) = b := by
  refine BitVec.eq_of_getLsbD_eq fun n hn => ?_
  have inByte : n < 8 := hn
  rw [BitVec.getLsbD_ofBoolListLE]
  interval_cases n <;> rfl

/-- Grouping the bits of bytes in eights gives the bytes (R166). -/
theorem bytesOfBits_flatMap (bs : List Byte) : bytesOfBits (bs.flatMap bitsOfByte) = bs := by
  induction bs with
  | nil => rfl
  | cons b bs ih => exact congrArg₂ List.cons (ofBoolListLE_bitsOfByte b) ih

/-- The bytes of a conversation are those of its body (R104). -/
theorem wireBytes_conversationBody (hw : s.cfg.wf = true) (hi : i.opensConversation = true) :
    wireBytes (conversationBody i s) = grammarBytes i s := by
  rw [← wireBytes_conversationList hw hi, conversationList_eq hi, wireBytes_append, wireBytes_conversation]
  split
  · rfl
  · rfl

/-- The history at the end of an accepted conversation: what is seen of its actions, then its response (R14, R35). -/
theorem State.finished_trace (s : State) (rest : List HostWord) (i : Instr) :
    (s.finished rest i).trace = s.trace ++ ((s.accepted rest i).seenAlong (conversationActions i s) ++
      [.response (responseWord 0#2 0#32)]) := by
  rw [State.finished, State.settle_trace_append, State.setPend_pend, if_pos rfl, State.setPend_trace, State.performAll_trace,
    List.append_assoc]
  rfl

/-- Settles O56: the listener hears the body's bytes of the run of O55, which are the grammar's. -/
theorem listenerHearsTheGrammar : Obligations.ListenerHearsTheGrammar := by
  intro s w rest i hs hp hc hd hi ready n low
  obtain ⟨hrun, -⟩ := run_accepted hs hp hc hd hi ready low
  obtain ⟨hw, -, -, -, -, hidle, -⟩ := s.inv_iff.1 hs
  obtain ⟨-, hscs, hsclk, -⟩ := hidle hp
  refine ⟨_, _, hrun, s.finished_trace rest i, fun l hl => ?_⟩
  obtain ⟨hlast, hheard⟩ := hearConversationList (s := s.accepted rest i) (s₀ := s) hi rfl hw hscs hsclk hl
  rw [Listener.hearAll_append]
  refine ⟨hlast, (congrArg (List.map bytesOfBits) hheard).trans ?_⟩
  rw [List.map_append, List.map_singleton, bytesOfBits_flatMap, wireBytes_conversationBody hw hi]

end Sys2Proof.Machine
end
